-- ==== Sys2Proof/Config.lean ====
section
/-! DEFINITION. The implementation parameters of PRB-IDXGEN (00_scope.md section 4, R7 to R12) and the one free value
the spec leaves to the platform, the allocator's draws. -/

namespace Sys2Proof.Config

/-- MAX_CAP, the largest capacity a CREATE accepts (R7, D22). -/
def maxCap : Nat := 512

/-- IDX_W, the width of CAP, HEAD and TAIL: the least width that holds MAX_CAP (R8). -/
def idxW : Nat := 10

/-- LEN_W, the width of the length and capacity operand (R9). -/
def lenW : Nat := 16

/-- CMD_W, the width of a command word (R10). -/
def cmdW : Nat := 32

/-- ST_W, the width of a status code (R10). -/
def stW : Nat := 3

/-- N_INST, the number of instances one block holds (R11). -/
def nInst : Nat := 1

/-- ALLOC, the allocator oracle (R12, D24): the answer to the n-th draw since the start, where the platform has lined up none
in the state. A free value: it has no body, so every claim holds for every draw. DESIGN CHOICE: log entry 4. -/
opaque allocDraw : Nat → Bool

end Sys2Proof.Config
end

