-- ==== Sys2Proof/Word.lean ====
section
/-! DEFINITION. The word types: a storage byte, a command word, a register index and a status code. Their widths are
the parameters of Config.lean, written as literals (Laws/Widths.lean ties the two). -/

namespace Sys2Proof

/-- An 8-bit unsigned byte (R13). -/
abbrev Byte := BitVec 8

/-- A command word CMD of CMD_W bits (R10, R63). -/
abbrev Word := BitVec 32

/-- The contents of CAP, HEAD and TAIL, IDX_W bits (R8). -/
abbrev Index := BitVec 10

/-- The contents of STATUS, ST_W bits (R10, R24). -/
abbrev StatusCode := BitVec 3

end Sys2Proof
end

