-- ==== Sys2Proof/Syntax.lean ====
section
/-! DEFINITION. The commands of PRB-IDXGEN as syntax (30_encoding.md), one constructor per row of the opcode table, the
opcodes, and the transaction (CMD, WDATA) an agent presents (R62). -/

namespace Sys2Proof

/-- The six operations of the OP field (R64). -/
inductive Opcode where
  | create | wrbuf | wrbyte | rdbuf | peek | consume
deriving DecidableEq, Repr

/-- A command. Lengths and capacities are natural numbers (R14); `bv` and `dv` are the bits BV (R65) and DV (R66), true
for 1; a bit that is reserved for a command (R68) is no operand of it. -/
inductive Instr where
  /-- CREATE (R77): create the instance with capacity CAPREQ. -/
  | create (capreq : Nat)
  /-- WRBUF (R83): append the LEN bytes of the payload. -/
  | wrbuf (bv dv : Bool) (len : Nat)
  /-- WRBYTE (R86): append the byte B. -/
  | wrbyte (bv : Bool) (b : Byte)
  /-- RDBUF (R90): remove and return the LEN oldest bytes. -/
  | rdbuf (bv dv : Bool) (len : Nat)
  /-- PEEK (R91): return the LEN oldest bytes. -/
  | peek (bv dv : Bool) (len : Nat)
  /-- CONSUME (R92): discard the LEN oldest bytes. -/
  | consume (bv : Bool) (len : Nat)
deriving DecidableEq, Repr

/-- The operation of a command. -/
def Instr.opcode : Instr → Opcode
  | .create _ => .create
  | .wrbuf _ _ _ => .wrbuf
  | .wrbyte _ _ => .wrbyte
  | .rdbuf _ _ _ => .rdbuf
  | .peek _ _ _ => .peek
  | .consume _ _ => .consume

/-- A command transaction (R62): the command word CMD and the write payload WDATA. -/
structure Transaction where
  cmd   : Word
  wdata : List Byte
deriving DecidableEq, Repr

end Sys2Proof
end

