-- ==== Sys2Proof/WellFormed.lean ====
section
/-! DEFINITION. Which commands the encoding can spell: a capacity or length operand fits in LEN_W = 16 bits (R9, R67). The
well-formedness of a transaction (R70) needs the decoder and stands in Decode.lean. -/

namespace Sys2Proof

/-- A capacity or length operand that IMM16 can hold (R67). -/
def operandFits (n : Nat) : Bool := decide (n < 2 ^ Config.lenW)

/-- Every operand of the command has a place in the word (R67). -/
def Instr.wellFormed : Instr → Bool
  | .create c => operandFits c
  | .wrbuf _ _ n => operandFits n
  | .wrbyte _ _ => true
  | .rdbuf _ _ n => operandFits n
  | .peek _ _ n => operandFits n
  | .consume _ n => operandFits n

end Sys2Proof
end

