-- ==== Sys2Proof/Decode.lean ====
section
/-! DEFINITION. Decoding a command word by the masks of R68, the byte order of R51, the encoder, and the well-formedness of
a transaction (R70). -/

namespace Sys2Proof

/-- Why a sequence of bytes is no command. -/
inductive DecodeReject where
  /-- OP is 0x0 or 0x7 .. 0xF (R64, R69). -/
  | reservedOp
  /-- OP is assigned, and a bit that R68 fixes differs from its fixed value. -/
  | reservedBits
  /-- Fewer than the four bytes of a command word (R73). -/
  | truncated
deriving DecidableEq, Repr

/-- OP = CMD[3:0] (R63). -/
def opField (w : Word) : BitVec 4 := w.extractLsb' 0 4

/-- BV = CMD[4] (R63). -/
def bvField (w : Word) : Bool := w.getLsbD 4

/-- DV = CMD[5] (R63). -/
def dvField (w : Word) : Bool := w.getLsbD 5

/-- IMM16 = CMD[31:16] (R63). -/
def immField (w : Word) : BitVec 16 := w.extractLsb' 16 16

/-- B = CMD[23:16] (R67). -/
def byteField (w : Word) : Byte := w.extractLsb' 16 8

/-- The OP number of an operation (R64). -/
def Opcode.number : Opcode → BitVec 4
  | .create => 0x1#4
  | .wrbuf => 0x2#4
  | .wrbyte => 0x3#4
  | .rdbuf => 0x4#4
  | .peek => 0x5#4
  | .consume => 0x6#4

/-- The mask of the fixed bits (R68). -/
def Opcode.mask : Opcode → Word
  | .create => 0x0000FFFF#32
  | .wrbuf => 0x0000FFCF#32
  | .wrbyte => 0xFF00FFEF#32
  | .rdbuf => 0x0000FFCF#32
  | .peek => 0x0000FFCF#32
  | .consume => 0x0000FFEF#32

/-- The value of the fixed bits (R68). -/
def Opcode.fixedBits : Opcode → Word
  | .create => 0x00000001#32
  | .wrbuf => 0x00000002#32
  | .wrbyte => 0x00000003#32
  | .rdbuf => 0x00000004#32
  | .peek => 0x00000005#32
  | .consume => 0x00000006#32

/-- The word selects the operation: (CMD & mask) = match (R68). -/
def selects (op : Opcode) (w : Word) : Bool := w &&& op.mask == op.fixedBits

/-- The operation an OP number names (R64). -/
def opcodeOf (op : BitVec 4) : Option Opcode :=
  if op = 0x1#4 then some .create
  else if op = 0x2#4 then some .wrbuf
  else if op = 0x3#4 then some .wrbyte
  else if op = 0x4#4 then some .rdbuf
  else if op = 0x5#4 then some .peek
  else if op = 0x6#4 then some .consume
  else none

/-- The command of an operation, its operands taken from their fields (R67). -/
def operandsOf (op : Opcode) (w : Word) : Instr :=
  match op with
  | .create => .create (immField w).toNat
  | .wrbuf => .wrbuf (bvField w) (dvField w) (immField w).toNat
  | .wrbyte => .wrbyte (bvField w) (byteField w)
  | .rdbuf => .rdbuf (bvField w) (dvField w) (immField w).toNat
  | .peek => .peek (bvField w) (dvField w) (immField w).toNat
  | .consume => .consume (bvField w) (immField w).toNat

/-- Decoding a command word, total (R72). -/
def decode (w : Word) : Except DecodeReject Instr :=
  match opcodeOf (opField w) with
  | none => .error .reservedOp
  | some op => if selects op w then .ok (operandsOf op w) else .error .reservedBits

/-- The command word as bytes, little-endian (R51). -/
def bytesOfWord (w : Word) : List Byte :=
  [w.extractLsb' 0 8, w.extractLsb' 8 8, w.extractLsb' 16 8, w.extractLsb' 24 8]

/-- The command word that four bytes carry, the first the least significant (R51). -/
def wordOfBytes (b0 b1 b2 b3 : Byte) : Word := b3 ++ b2 ++ b1 ++ b0

/-- Decoding a command sent as bytes (R51), with the bytes that follow it. -/
def decodeBytes : List Byte → Except DecodeReject (Instr × List Byte)
  | b0 :: b1 :: b2 :: b3 :: rest =>
    match decode (wordOfBytes b0 b1 b2 b3) with
    | .ok i => .ok (i, rest)
    | .error e => .error e
  | _ => .error .truncated

/-- A word laid out in the format CMDW, RSV = 0 (R63). -/
def packWord (op : Opcode) (bv dv : Bool) (imm : BitVec 16) : Word :=
  imm ++ (0#10 ++ (BitVec.ofBool dv ++ (BitVec.ofBool bv ++ op.number)))

/-- The command word of a command (R63, R67, R74). -/
def encode : Instr → Word
  | .create c => packWord .create false false (BitVec.ofNat 16 c)
  | .wrbuf bv dv n => packWord .wrbuf bv dv (BitVec.ofNat 16 n)
  | .wrbyte bv b => packWord .wrbyte bv false (0#8 ++ b)
  | .rdbuf bv dv n => packWord .rdbuf bv dv (BitVec.ofNat 16 n)
  | .peek bv dv n => packWord .peek bv dv (BitVec.ofNat 16 n)
  | .consume bv n => packWord .consume bv false (BitVec.ofNat 16 n)

/-- How many payload bytes a command takes: LEN for a WRBUF with DV = 1, none for any other (R70). -/
def Instr.payloadLen : Instr → Nat
  | .wrbuf _ true n => n
  | _ => 0

/-- The transaction is well-formed (R70): the payload has the length its command word calls for, none for an illegal word. -/
def Transaction.wellFormed (t : Transaction) : Bool :=
  match decode t.cmd with
  | .ok i => t.wdata.length == i.payloadLen
  | .error _ => t.wdata.length == 0

/-- The command the decoder reads from an opcode-table word of `nbits` bits, laid out in memory order (R51). -/
def decodeTableWord (nbits w : Nat) : Option Instr :=
  match decodeBytes (bytesOfWord (BitVec.ofNat 32 (w % 2 ^ nbits))) with
  | .ok (i, _) => some i
  | .error _ => none

end Sys2Proof
end

