-- ==== Sys2Proof/Machine/State.lean ====
section
/-! DEFINITION. The state of PRB-IDXGEN, its platform and the agents that issue commands, as plain data (10_state.md,
INVENTORY.md '## State'), and the state after reset. -/

namespace Sys2Proof.Machine

/-- The status results (R71). Code 6 has no name, for it is never produced. -/
inductive Status where
  | ok | invalidArgument | capacityExceeded | allocationFailed | insufficientSpace | insufficientData | illegalCommand
deriving DecidableEq, Repr

/-- Why the machine stops. The hardware has no faults (R97); both are the model's own. -/
inductive Fault where
  /-- A read of a byte that nothing has written (R44, D23), raised by `memRead`. Safe: no run from reset reaches it (R61). -/
  | unwrittenRead (address : Nat)
  /-- An access above the MAX_CAP + 1 slots (R42), raised by `memRead` and `memWrite`. Safe: no legal CAP lets one arise. -/
  | noSuchSlot (address : Nat)
deriving DecidableEq, Repr

/-- Why the machine gives an instruction no meaning. -/
inductive Refusal where
  /-- An instruction without a meaning, raised by `exec`'s arms alone. Safe. -/
  | notModelled (mnemonic : String)
  /-- The payload's length is not the one the command calls for (R70), raised by `withPayload`. Safe: the spec refuses the run. -/
  | payloadMismatch
deriving DecidableEq, Repr

/-- STOR (R41): (address, byte) pairs, addresses strictly rising. An unlisted address is unwritten and has no value (R44;
log entry 2), so no entry can equal what an unlisted address reads as. -/
abbrev Memory := List Host.Cell

/-- The response that completes a command (R34): the status code and the bytes read. -/
structure Response where
  status : StatusCode
  rdata  : List Byte
deriving DecidableEq, Repr

/-- The two kinds of agent that issue commands (R17). They have the same rights (R113). -/
inductive Role where
  /-- Interrupt context. -/
  | producer
  /-- Foreground context. -/
  | consumer
deriving DecidableEq, Repr

/-- An issuing agent: its finite command list (R126) and the index n of its next command (R37). -/
structure Agent where
  role    : Role
  program : List Transaction
  next    : Nat
deriving DecidableEq, Repr

/-- What happens at a command boundary. -/
inductive Event where
  /-- The agent of this number issues its next command (R17). -/
  | issue (agent : Nat)
  /-- The platform sets GIE (R35). -/
  | setGie (value : Bool)
  /-- The block is reset (R117). -/
  | reset
deriving DecidableEq, Repr

/-- A completed command: the agent that issued it and its response. -/
structure Completion where
  agent    : Nat
  response : Response
deriving DecidableEq, Repr

/-- The observation outputs (R33). -/
structure Outputs where
  cfg    : Bool
  cap    : Index
  head   : Index
  tail   : Index
  status : StatusCode
  used   : Nat
  free   : Nat
  empty  : Bool
  full   : Bool
deriving DecidableEq, Repr

/-- The machine at a command boundary. -/
structure State where
  /-- CFG: an instance exists (R18). -/
  cfg        : Bool
  /-- CAP: the configured capacity (R19). -/
  cap        : Index
  /-- HEAD: the next slot to write (R21). -/
  head       : Index
  /-- TAIL: the next slot to read (R22). -/
  tail       : Index
  /-- STATUS: the code of the last command (R24). -/
  status     : StatusCode
  /-- RDATA: the response list of the last command (R34). -/
  rdata      : List Byte
  /-- STOR: the storage (R41). -/
  stor       : Memory
  /-- GIE: the platform's global interrupt enable (R35). -/
  gie        : Bool
  /-- ALLOC draws the platform has lined up (R12). -/
  allocInput : List Bool
  /-- How many ALLOC draws have been made: the model's own counter (log entry 4). -/
  allocDrawn : Nat
  /-- WDATA: the payload on the command port (R62). -/
  wdata      : List Byte
  /-- The issuing agents (R17, R37, R126). -/
  agents     : List Agent
  /-- The interleaving still to come (R17, R126). -/
  schedule   : List Event
  /-- The responses so far, in the order of completion (R126). -/
  responses  : List Completion
deriving DecidableEq, Repr

/-- The machine right after reset (R39). GIE, which reset does not touch, is DESIGN CHOICE 1 (log entry 1); the agents have
no commands and the platform has lined up nothing (DESIGN CHOICE, log entry 8). -/
def State.reset : State where
  cfg        := false
  cap        := 0#10
  head       := 0#10
  tail       := 0#10
  status     := 0#3
  rdata      := []
  stor       := []
  gie        := true
  allocInput := []
  allocDrawn := 0
  wdata      := []
  agents     := [⟨.producer, [], 0⟩, ⟨.consumer, [], 0⟩]
  schedule   := []
  responses  := []

end Sys2Proof.Machine
end

