-- ==== Sys2Proof/Machine/Flags.lean ====
section
/-! DEFINITION. The status codes (R71) and the derived values SIZE, USED, FREE, EMPTY and FULL, functions of CAP, HEAD and
TAIL and of nothing else (10_state.md section 2, R31), with the observation outputs (R33). -/

namespace Sys2Proof.Machine

/-- The number of a status (R71). -/
def Status.code : Status → StatusCode
  | .ok => 0#3
  | .invalidArgument => 1#3
  | .capacityExceeded => 2#3
  | .allocationFailed => 3#3
  | .insufficientSpace => 4#3
  | .insufficientData => 5#3
  | .illegalCommand => 7#3

/-- SIZE = CAP + 1, the number of storage slots (R20). -/
def State.size (s : State) : Nat := s.cap.toNat + 1

/-- USED = (HEAD + SIZE - TAIL) mod SIZE, the number of bytes held (R25). -/
def State.used (s : State) : Nat := (s.head.toNat + s.size - s.tail.toNat) % s.size

/-- FREE = SIZE - USED - 1, the number of bytes a write can still add (R26). -/
def State.free (s : State) : Nat := s.size - s.used - 1

/-- EMPTY = (HEAD == TAIL) (R27). -/
def State.empty (s : State) : Bool := s.head == s.tail

/-- FULL = (USED == CAP) (R28). -/
def State.full (s : State) : Bool := s.used == s.cap.toNat

/-- The observation outputs at a command boundary (R33). -/
def State.outputs (s : State) : Outputs where
  cfg    := s.cfg
  cap    := s.cap
  head   := s.head
  tail   := s.tail
  status := s.status
  used   := s.used
  free   := s.free
  empty  := s.empty
  full   := s.full

end Sys2Proof.Machine
end

