-- ==== Sys2Proof/Machine/Operands.lean ====
section
/-! DEFINITION. The operand forms: the buffer handle (R65), the storage addresses of a transfer (R46 to R48) and the advance
of an index (R49). -/

namespace Sys2Proof.Machine

/-- The command's handle is valid: BV = 1 and CFG = 1 (R65). -/
def State.handleValid (s : State) (bv : Bool) : Bool := bv && s.cfg

/-- The storage address of byte `k` of a transfer that starts at `base`: (base + k) mod SIZE (R46, R47). -/
def slotAt (base size k : Nat) : Nat := (base + k) % size

/-- The length of the first of the two contiguous segments of a transfer, min(LEN, SIZE - base): the MIN, never the MAX (R48). -/
def firstSegment (base len size : Nat) : Nat := min len (size - base)

/-- The addresses of the two-segment split, in transfer order (R48). -/
def segmentAddresses (base len size : Nat) : List Nat :=
  (List.range (firstSegment base len size)).map (base + ·) ++ List.range (len - firstSegment base len size)

/-- The index after a transfer of `len` bytes: (base + LEN) mod SIZE (R49). -/
def advance (base : Index) (len size : Nat) : Index := BitVec.ofNat 10 ((base.toNat + len) % size)

/-- CAP as CREATE writes it: the low IDX_W bits of CAPREQ, all of it for a CAPREQ that CREATE accepts (R8, R77). -/
def capOf (capreq : Nat) : Index := BitVec.ofNat 10 capreq

end Sys2Proof.Machine
end

