-- ==== Sys2Proof/Machine/Ops.lean ====
section
/-! DEFINITION. The shared operations: storage accesses, the allocator's draws, the ways a command ends (R15), the GIE
bracket (R110), the payload check (R70), reset (R117), and how the next transaction reaches the command port. The block has
no exceptions to take and none to return from (R97, R106, R107): `raise` is how every failing command ends. -/

namespace Sys2Proof.Machine

/-! ### STOR -/

/-- The canonical form of the storage: addresses strictly rising. -/
abbrev Memory.wf (m : Memory) : Prop := m.Pairwise (fun x y => x.1 < y.1)

/-- The byte last written at an address, none where nothing has been written (R44). -/
def Memory.lookup : Memory → Nat → Option Byte
  | [], _ => none
  | c :: m, a => if c.1 = a then some c.2 else Memory.lookup m a

/-- The storage with a byte put at an address, in canonical form. -/
def Memory.put : Memory → Nat → Byte → Memory
  | [], a, v => [(a, v)]
  | c :: m, a, v =>
    if a < c.1 then (a, v) :: c :: m
    else if a = c.1 then (a, v) :: m
    else c :: Memory.put m a v

/-- MemRead(a, 1) (R15): one of the MAX_CAP + 1 slots (R42), and one that has been written (R44). -/
def memRead (m : Memory) (a : Nat) : Except Fault Byte :=
  if a ≤ Config.maxCap then
    match Memory.lookup m a with
    | some v => .ok v
    | none => .error (.unwrittenRead a)
  else .error (.noSuchSlot a)

/-- MemWrite(a, 1, v) (R15), to one of the MAX_CAP + 1 slots (R42). -/
def memWrite (m : Memory) (a : Nat) (v : Byte) : Except Fault Memory :=
  if a ≤ Config.maxCap then .ok (Memory.put m a v) else .error (.noSuchSlot a)

/-- The write loop (R46): byte j of the list goes to (base + k + j) mod SIZE. -/
def writeFrom (base size : Nat) : Nat → List Byte → Memory → Except Fault Memory
  | _, [], m => .ok m
  | k, v :: vs, m =>
    match memWrite m (slotAt base size k) v with
    | .error f => .error f
    | .ok m' => writeFrom base size (k + 1) vs m'

/-- The read loop (R47): `n` bytes from (base + k) mod SIZE on. -/
def readFrom (m : Memory) (base size : Nat) : Nat → Nat → Except Fault (List Byte)
  | _, 0 => .ok []
  | k, n + 1 =>
    match memRead m (slotAt base size k) with
    | .error f => .error f
    | .ok v =>
      match readFrom m base size (k + 1) n with
      | .error f => .error f
      | .ok vs => .ok (v :: vs)

/-- Q, the bytes of the live region in FIFO order (R45). -/
def State.queue (s : State) : Except Fault (List Byte) := readFrom s.stor s.tail.toNat s.size 0 s.used

/-! ### How a command ends -/

/-- raise S (R15): STATUS <- S, RDATA <- [], nothing else. -/
def State.raise (s : State) (S : Status) : State := { s with status := S.code, rdata := [] }

/-- finish (R15): STATUS <- OK, with the bytes emitted as RDATA. -/
def State.finish (s : State) (rdata : List Byte) : State := { s with status := Status.ok.code, rdata := rdata }

/-- The registers a successful CREATE writes (R77). CREATE does not access STOR (R41; log entry 3). -/
def State.commitCreate (s : State) (cap : Index) : State := { s with cfg := true, cap := cap, head := 0#10, tail := 0#10 }

/-- STOR and HEAD, which a successful write changes together (R83, R86). -/
def State.commitWrite (s : State) (stor : Memory) (head : Index) : State := { s with stor := stor, head := head }

/-- TAIL, which a successful RDBUF or CONSUME writes (R90, R92). -/
def State.commitTail (s : State) (tail : Index) : State := { s with tail := tail }

/-- GIE <- v. -/
def State.putGie (s : State) (v : Bool) : State := { s with gie := v }

/-! ### The allocator -/

/-- The answer of the next DrawAlloc() (R12, R15): what the platform has lined up, else the free value (log entry 4). -/
def State.nextDraw (s : State) : Bool :=
  match s.allocInput with
  | ok :: _ => ok
  | [] => Config.allocDraw s.allocDrawn

/-- The state after a DrawAlloc(). -/
def State.afterDraw (s : State) : State := { s with allocInput := s.allocInput.tail, allocDrawn := s.allocDrawn + 1 }

/-! ### The frame of a command -/

/-- The boundary check (R70): a transaction whose payload has the wrong length is refused, and no command runs. -/
def withPayload (len : Nat) (s : State) (body : State → Host.Outcome State Fault Refusal) :
    Host.Outcome State Fault Refusal :=
  if s.wdata.length = len then body s else .refused .payloadMismatch

/-- The critical section (R110): GIE is saved and driven to 0, the body runs, and GIE is set again on every exit path, only
if it was set. The saved copy lives inside the command alone (R38; log entry 12). -/
def critical (s : State) (body : State → Except Fault State) : Host.Outcome State Fault Refusal :=
  match body (s.putGie false) with
  | .error f => .fault f
  | .ok t => .next (if s.gie then t.putGie true else t)

/-- A word that is no command (R69): IllegalCommand, and no other change. -/
def illegalCommand (s : State) : Host.Outcome State Fault Refusal :=
  withPayload 0 s fun s => .next (s.raise .illegalCommand)

/-! ### Between commands -/

/-- Reset (R39, R117): the block's registers and STOR. GIE, the allocator and the agents are not the block's (log entry 8). -/
def State.blockReset (s : State) : State :=
  { s with cfg := false, cap := 0#10, head := 0#10, tail := 0#10, status := 0#3, rdata := [], stor := [] }

/-- The agent's next command, none when its list is at its end or there is no such agent (R37, R126). -/
def State.fetch (s : State) (agent : Nat) : Option Transaction :=
  match s.agents[agent]? with
  | some g => g.program[g.next]?
  | none => none

/-- Agent number `agent` has one command more behind it (R37). -/
def advanceAgent (agents : List Agent) (agent : Nat) : List Agent :=
  agents.modify agent fun g => { g with next := g.next + 1 }

/-- The rest of the interleaving. -/
def State.dropEvent (s : State) (rest : List Event) : State := { s with schedule := rest }

/-- WDATA <- d: the payload of a transaction on the command port (R62). -/
def State.putWdata (s : State) (d : List Byte) : State := { s with wdata := d }

/-- An agent presents its next command: the payload stands on the port and the agent's index n moves on (R37, R62). -/
def State.present (s : State) (agent : Nat) (t : Transaction) : State :=
  { s with wdata := t.wdata, agents := advanceAgent s.agents agent }

/-- The response goes to the agent and into the run's list (R34, R126), and the port is clear. -/
def State.record (s : State) (agent : Nat) : State :=
  { s with wdata := [], responses := s.responses ++ [⟨agent, ⟨s.status, s.rdata⟩⟩] }

/-- The completion of agent `agent`'s command. A run that stops has no response (R126). -/
def completion (agent : Nat) : Host.Outcome State Fault Refusal → Host.Outcome State Fault Refusal
  | .next t => .next (t.record agent)
  | .fault f => .fault f
  | .refused r => .refused r

/-- A transaction for a table word: the payload it needs is zeros (DESIGN CHOICE, log entry 9). -/
def tableTransaction (w : Word) : Transaction where
  cmd := w
  wdata := match decode w with
    | .ok i => List.replicate i.payloadLen 0#8
    | .error _ => []

/-- The state with one more agent, whose only command is `t`, and that agent's turn first. -/
def State.withNext (s : State) (t : Transaction) : State :=
  { s with agents := s.agents ++ [⟨.consumer, [t], 0⟩], schedule := .issue s.agents.length :: s.schedule }

end Sys2Proof.Machine
end

