-- ==== Sys2Proof/Machine/Configure.lean ====
section
/-! DEFINITION. The configuration command CREATE (40_create.md). -/

namespace Sys2Proof.Machine

/-- The body of CREATE: the checks in their order (R105), then the writes (R77). Each refused capacity makes no draw (R78, R80);
a failed second draw releases the storage, which leaves no trace in the block (R79; log entry 13). -/
def createBody (capreq : Nat) (s : State) : State :=
  if s.cfg then s.raise .illegalCommand
  else if Config.maxCap < capreq then s.raise .capacityExceeded
  else if !s.nextDraw then s.afterDraw.raise .allocationFailed
  else if !s.afterDraw.nextDraw then s.afterDraw.afterDraw.raise .allocationFailed
  else (s.afterDraw.afterDraw.commitCreate (capOf capreq)).finish []

/-- CREATE #capreq (R77). It has no critical section and leaves GIE unchanged (R82). -/
def execCreate (capreq : Nat) (s : State) : Host.Outcome State Fault Refusal :=
  withPayload 0 s fun s => .next (createBody capreq s)

end Sys2Proof.Machine
end

