-- ==== Sys2Proof/Machine/Read.lean ====
section
/-! DEFINITION. The read commands RDBUF, PEEK and CONSUME (42_read.md). -/

namespace Sys2Proof.Machine

/-- The body of RDBUF: the checks in their order (R105), the bytes from TAIL on, then TAIL (R90). -/
def rdbufBody (bv dv : Bool) (len : Nat) (s : State) : Except Fault State :=
  if !s.handleValid bv then .ok (s.raise .invalidArgument)
  else if !dv then .ok (s.raise .invalidArgument)
  else if len = 0 then .ok (s.raise .invalidArgument)
  else if s.used < len then .ok (s.raise .insufficientData)
  else
    match readFrom s.stor s.tail.toNat s.size 0 len with
    | .error f => .error f
    | .ok vs => .ok ((s.commitTail (advance s.tail len s.size)).finish vs)

/-- RDBUF #len (R90). -/
def execRdbuf (bv dv : Bool) (len : Nat) (s : State) : Host.Outcome State Fault Refusal :=
  withPayload 0 s fun s => critical s (rdbufBody bv dv len)

/-- The body of PEEK: RDBUF's checks and bytes, and TAIL is not written (R91). -/
def peekBody (bv dv : Bool) (len : Nat) (s : State) : Except Fault State :=
  if !s.handleValid bv then .ok (s.raise .invalidArgument)
  else if !dv then .ok (s.raise .invalidArgument)
  else if len = 0 then .ok (s.raise .invalidArgument)
  else if s.used < len then .ok (s.raise .insufficientData)
  else
    match readFrom s.stor s.tail.toNat s.size 0 len with
    | .error f => .error f
    | .ok vs => .ok (s.finish vs)

/-- PEEK #len (R91). -/
def execPeek (bv dv : Bool) (len : Nat) (s : State) : Host.Outcome State Fault Refusal :=
  withPayload 0 s fun s => critical s (peekBody bv dv len)

/-- The body of CONSUME: no data pointer to check, and TAIL (R92). -/
def consumeBody (bv : Bool) (len : Nat) (s : State) : Except Fault State :=
  if !s.handleValid bv then .ok (s.raise .invalidArgument)
  else if len = 0 then .ok (s.raise .invalidArgument)
  else if s.used < len then .ok (s.raise .insufficientData)
  else .ok ((s.commitTail (advance s.tail len s.size)).finish [])

/-- CONSUME #len (R92). -/
def execConsume (bv : Bool) (len : Nat) (s : State) : Host.Outcome State Fault Refusal :=
  withPayload 0 s fun s => critical s (consumeBody bv len)

end Sys2Proof.Machine
end

