-- ==== Sys2Proof/Machine/Write.lean ====
section
/-! DEFINITION. The write commands WRBUF and WRBYTE (41_write.md). -/

namespace Sys2Proof.Machine

/-- The body of WRBUF: the checks in their order (R105), then STOR and HEAD (R83). -/
def wrbufBody (bv dv : Bool) (len : Nat) (s : State) : Except Fault State :=
  if !s.handleValid bv then .ok (s.raise .invalidArgument)
  else if !dv then .ok (s.raise .invalidArgument)
  else if len = 0 then .ok (s.raise .invalidArgument)
  else if s.free < len then .ok (s.raise .insufficientSpace)
  else
    match writeFrom s.head.toNat s.size 0 s.wdata s.stor with
    | .error f => .error f
    | .ok m => .ok ((s.commitWrite m (advance s.head len s.size)).finish [])

/-- WRBUF #len with its payload (R83). With DV = 0 there is no payload (R70). -/
def execWrbuf (bv dv : Bool) (len : Nat) (s : State) : Host.Outcome State Fault Refusal :=
  withPayload (Instr.wrbuf bv dv len).payloadLen s fun s => critical s (wrbufBody bv dv len)

/-- The body of WRBYTE: the checks in their order (R105), then the byte at HEAD and HEAD (R86). -/
def wrbyteBody (bv : Bool) (b : Byte) (s : State) : Except Fault State :=
  if !s.handleValid bv then .ok (s.raise .invalidArgument)
  else if s.free = 0 then .ok (s.raise .insufficientSpace)
  else
    match memWrite s.stor s.head.toNat b with
    | .error f => .error f
    | .ok m => .ok ((s.commitWrite m (advance s.head 1 s.size)).finish [])

/-- WRBYTE #b (R86). -/
def execWrbyte (bv : Bool) (b : Byte) (s : State) : Host.Outcome State Fault Refusal :=
  withPayload 0 s fun s => critical s (wrbyteBody bv b)

end Sys2Proof.Machine
end

