-- ==== Sys2Proof/Machine/Dispatch.lean ====
section
/-! DEFINITION. Every command of the opcode table and its meaning, one arm each. -/

namespace Sys2Proof.Machine

def exec (i : Instr) (s : State) : Host.Outcome State Fault Refusal :=
  match i with
  | .create capreq => Sys2Proof.Machine.execCreate capreq s
  | .wrbuf bv dv len => Sys2Proof.Machine.execWrbuf bv dv len s
  | .wrbyte bv b => Sys2Proof.Machine.execWrbyte bv b s
  | .rdbuf bv dv len => Sys2Proof.Machine.execRdbuf bv dv len s
  | .peek bv dv len => Sys2Proof.Machine.execPeek bv dv len s
  | .consume bv len => Sys2Proof.Machine.execConsume bv len s

end Sys2Proof.Machine
end

