-- ==== Sys2Proof/Machine/Step.lean ====
section
/-! DEFINITION. One step: the event that the interleaving puts next (R17, R57, R126). A command is one step (R125). -/

namespace Sys2Proof.Machine

/-- A command word at the port, with the payload in `wdata`: a command's meaning, or IllegalCommand (R69, R72). -/
def runWord (w : Word) (s : State) : Host.Outcome State Fault Refusal :=
  match decode w with
  | .ok i => exec i s
  | .error _ => illegalCommand s

/-- One transaction at the command port (R62). -/
def transact (t : Transaction) (s : State) : Host.Outcome State Fault Refusal :=
  runWord t.cmd (s.putWdata t.wdata)

/-- One step. With no event to come the run has ended and the block, which initiates nothing (R17), holds its state; an agent
whose list is at its end issues nothing (log entry 6). -/
def step (s : State) : Host.Outcome State Fault Refusal :=
  match s.schedule with
  | [] => .next s
  | .reset :: rest => .next (s.dropEvent rest).blockReset
  | .setGie v :: rest => .next ((s.dropEvent rest).putGie v)
  | .issue a :: rest =>
    match s.fetch a with
    | none => .next (s.dropEvent rest)
    | some t => completion a (runWord t.cmd ((s.dropEvent rest).present a t))

/-- The state whose next step runs the command word `w`: an agent more, with that one command, and its turn next. It stands
for the loading of an agent's command list from outside (log entry 9). -/
def State.withFetchWord (s : State) (nbits w : Nat) : State :=
  s.withNext (tableTransaction (BitVec.ofNat 32 (w % 2 ^ nbits)))

end Sys2Proof.Machine
end

