-- ==== Sys2Proof/Safety.lean ====
section
/-! DEFINITION. What claims about PRB-IDXGEN are stated in: the invariant of the reachable states, a safe run, the end of a run
and its observation (R126), the abstract queue the block implements (R45, R94), and the producer's phase of a
single-producer/single-consumer run (R114, R123). -/

namespace Sys2Proof

/-! ### Kinds of command -/

/-- The bytes a write transaction in its canonical form appends, none for any other transaction (R74, R94). -/
def Transaction.writes (t : Transaction) : Option (List Byte) :=
  match decode t.cmd with
  | .ok (.wrbuf true true n) => if t.wdata.length = n ∧ n ≠ 0 then some t.wdata else none
  | .ok (.wrbyte true b) => if t.wdata = [] then some [b] else none
  | _ => none

/-- The command decreases USED when it succeeds: RDBUF and CONSUME (R123). -/
def Instr.drains : Instr → Bool
  | .rdbuf _ _ _ => true
  | .consume _ _ => true
  | _ => false

/-- The command increases USED when it succeeds: WRBUF and WRBYTE (R123). -/
def Instr.fills : Instr → Bool
  | .wrbuf _ _ _ => true
  | .wrbyte _ _ => true
  | _ => false

/-- The word is no command of this kind. -/
def wordAvoids (p : Instr → Bool) (w : Word) : Bool :=
  match decode w with
  | .ok i => !p i
  | .error _ => true

end Sys2Proof

namespace Sys2Proof.Machine

/-! ### The invariant -/

/-- What holds at every command boundary of a run from reset. -/
structure State.Inv (s : State) : Prop where
  /-- CAP is legal (R19). -/
  capLegal     : s.cap.toNat ≤ Config.maxCap
  /-- HEAD < SIZE (R23). -/
  headLegal    : s.head.toNat < s.size
  /-- TAIL < SIZE (R23). -/
  tailLegal    : s.tail.toNat < s.size
  /-- Code 6 is never produced (R71). -/
  statusLegal  : s.status ≠ 6#3
  /-- RDATA is non-empty only after a success (R98). -/
  rdataOfOk    : s.rdata ≠ [] → s.status = 0#3
  /-- STOR is in canonical form. -/
  storWf       : s.stor.wf
  /-- No write has gone past address CAP (R42, R48). -/
  storBounded  : ∀ c ∈ s.stor, c.1 < s.size
  /-- Every address of the live region has been written (R61). -/
  liveWritten  : ∀ i, i < s.used → (s.stor.lookup (slotAt s.tail.toNat s.size i)).isSome
  /-- With CFG = 0 the block is as reset left it (R18, R39, R44). -/
  unconfigured : s.cfg = false → s.cap = 0#10 ∧ s.head = 0#10 ∧ s.tail = 0#10 ∧ s.stor = []

/-- A run of `k` steps is safe when it ends in no fault. -/
def safeRun (k : Nat) (s : State) : Prop := ∀ f, Host.Core.run Sys2Proof.core k s ≠ .fault f

/-! ### The end of a run -/

/-- Every agent's list has been issued (R126). -/
def State.runEnded (s : State) : Bool := s.agents.all fun g => g.program.length ≤ g.next

/-- The bytes of Q, none where the live region cannot be read (which no reachable state shows, R61). -/
def State.queueBytes (s : State) : List Byte :=
  match s.queue with
  | .ok q => q
  | .error _ => []

/-- The observation of a run (R126). -/
structure Observation where
  cfg       : Bool
  cap       : Index
  head      : Index
  tail      : Index
  status    : StatusCode
  queue     : List Byte
  gie       : Bool
  responses : List Completion
deriving DecidableEq, Repr

/-- The observation of a run that has ended in this state (R126). -/
def State.observation (s : State) : Observation where
  cfg       := s.cfg
  cap       := s.cap
  head      := s.head
  tail      := s.tail
  status    := s.status
  queue     := s.queueBytes
  gie       := s.gie
  responses := s.responses

/-! ### The abstract queue -/

/-- What the six commands can tell of the block: whether it is configured, its capacity and the bytes it holds, oldest first
(R45). It has no indices. -/
structure Fifo where
  cfg   : Bool
  cap   : Nat
  bytes : List Byte
deriving DecidableEq, Repr

/-- The queue a state holds. -/
def State.fifo (s : State) : Fifo := ⟨s.cfg, s.cap.toNat, s.queueBytes⟩

/-- A completed command on the abstract queue: the queue left, the status code and the bytes returned. -/
structure FifoResult where
  fifo   : Fifo
  status : StatusCode
  rdata  : List Byte
deriving DecidableEq, Repr

/-- The commands on the abstract queue, from their queue terms and statuses (R77, R83, R86, R90 to R92, in the order of R105):
`wdata` is the payload, and `granted` says whether both ALLOC draws are true. -/
def Fifo.run (q : Fifo) (wdata : List Byte) (granted : Bool) : Instr → FifoResult
  | .create c =>
    if q.cfg then ⟨q, 7#3, []⟩
    else if Config.maxCap < c then ⟨q, 2#3, []⟩
    else if !granted then ⟨q, 3#3, []⟩
    else ⟨⟨true, c, []⟩, 0#3, []⟩
  | .wrbuf bv dv n =>
    if !bv || !q.cfg || !dv || n == 0 then ⟨q, 1#3, []⟩
    else if q.cap < q.bytes.length + n then ⟨q, 4#3, []⟩
    else ⟨{ q with bytes := q.bytes ++ wdata }, 0#3, []⟩
  | .wrbyte bv b =>
    if !bv || !q.cfg then ⟨q, 1#3, []⟩
    else if q.cap < q.bytes.length + 1 then ⟨q, 4#3, []⟩
    else ⟨{ q with bytes := q.bytes ++ [b] }, 0#3, []⟩
  | .rdbuf bv dv n =>
    if !bv || !q.cfg || !dv || n == 0 then ⟨q, 1#3, []⟩
    else if q.bytes.length < n then ⟨q, 5#3, []⟩
    else ⟨{ q with bytes := q.bytes.drop n }, 0#3, q.bytes.take n⟩
  | .peek bv dv n =>
    if !bv || !q.cfg || !dv || n == 0 then ⟨q, 1#3, []⟩
    else if q.bytes.length < n then ⟨q, 5#3, []⟩
    else ⟨q, 0#3, q.bytes.take n⟩
  | .consume bv n =>
    if !bv || !q.cfg || n == 0 then ⟨q, 1#3, []⟩
    else if q.bytes.length < n then ⟨q, 5#3, []⟩
    else ⟨{ q with bytes := q.bytes.drop n }, 0#3, []⟩

/-- Two states that the six commands cannot tell apart (R96): the same queue, and the same platform, agents and interleaving
to come. The indices, the stale bytes, STATUS, RDATA and the responses so far may differ. -/
structure SameQueue (s t : State) : Prop where
  fifo       : s.fifo = t.fifo
  gie        : s.gie = t.gie
  allocInput : s.allocInput = t.allocInput
  allocDrawn : s.allocDrawn = t.allocDrawn
  agents     : s.agents = t.agents
  schedule   : s.schedule = t.schedule

/-! ### Transactions one after another -/

/-- Transactions completed one after another at the command port, with nothing between them; it stops at a fault or a refusal. -/
def transactAll : List Transaction → State → Host.Outcome State Fault Refusal
  | [], s => .next s
  | t :: ts, s =>
    match transact t s with
    | .next s' => transactAll ts s'
    | .fault f => .fault f
    | .refused r => .refused r

/-! ### The single-producer/single-consumer discipline -/

/-- The agent's list holds no command of this kind. -/
def Agent.avoids (p : Instr → Bool) (g : Agent) : Bool := g.program.all fun t => wordAvoids p t.cmd

/-- A stretch of a run between two commands of one side (R123): no reset, and the commands issued are of agents whose lists
hold none of the other kind. With `p = Instr.drains` it is the producer's phase, between two commands of the consumer. -/
def State.phaseAvoids (s : State) (p : Instr → Bool) (k : Nat) : Bool :=
  (s.schedule.take k).all fun
    | .reset => false
    | .setGie _ => true
    | .issue a =>
      match s.agents[a]? with
      | some g => g.avoids p
      | none => true

end Sys2Proof.Machine
end

