-- ==== Sys2Proof/Certificates/Slice0/Obligations.lean ====
section
/-! DEFINITION. The statements about PRB-IDXGEN, from the numbered rules of spec/. A statement about one command names the
payload that R70 asks for (`s.wdata`; `s.putWdata d` is the state with payload d on the port); status codes are written by their numbers in R71. -/

open Sys2Proof Sys2Proof.Machine

/-! ### Reset and the step -/

/-- R39: the registers after reset, the unwritten storage and the derived values, in the first state and after a reset of any
state, and a reset does not touch GIE. -/
def Obligations.ResetValues : Prop :=
  (∀ r : State, (r = State.reset ∨ ∃ s : State, r = s.blockReset) →
    r.cfg = false ∧ r.cap = 0#10 ∧ r.head = 0#10 ∧ r.tail = 0#10 ∧ r.status = 0#3 ∧ r.rdata = [] ∧
    (∀ a, Memory.lookup r.stor a = none) ∧
    r.size = 1 ∧ r.used = 0 ∧ r.free = 0 ∧ r.empty = true ∧ r.full = true) ∧
  ∀ s : State, s.blockReset.gie = s.gie

/-- 70_reset_and_hazards.md section 1: a reset between commands changes the block's registers and STOR alone; it does not change
GIE, makes no ALLOC draw, and the agents' lists stand. -/
def Obligations.ResetStepLeavesPlatform : Prop :=
  ∀ (s : State) (es : List Event), s.schedule = .reset :: es →
    step s = .next { s with
      schedule := es, cfg := false, cap := 0#10, head := 0#10, tail := 0#10, status := 0#3, rdata := [], stor := [] }

/-- When the transaction that an agent issues next decodes to a command, the step is that command's `exec`, with the payload on
the port, the event taken and the agent's index moved on; a completed command's response is recorded and the port cleared. -/
def Obligations.StepRunsDecodedCommand : Prop :=
  ∀ (s : State) (a : Nat) (es : List Event) (t : Transaction) (i : Instr),
    s.schedule = .issue a :: es → s.fetch a = some t → decode t.cmd = .ok i →
    step s = completion a (exec i { s with
      schedule := es, wdata := t.wdata, agents := s.agents.modify a fun g => { g with next := g.next + 1 } })

/-- R34: a completed command, successful or not, returns the STATUS and RDATA it left; RDATA is non-empty only for a successful RDBUF
or PEEK, and then holds exactly LEN bytes in FIFO order. The response is the last of the run's list, and the agent's index n alone
has advanced, by exactly 1 (10_state.md section 4). -/
def Obligations.CompletedCommandResponds : Prop :=
  ∀ (s t : State) (a : Nat) (es : List Event) (x : Transaction) (g : Agent),
    s.schedule = .issue a :: es → s.agents[a]? = some g → g.program[g.next]? = some x → step s = .next t →
    t.responses = s.responses ++ [⟨a, ⟨t.status, t.rdata⟩⟩] ∧
    t.agents[a]? = some { g with next := g.next + 1 } ∧
    (∀ b, b ≠ a → t.agents[b]? = s.agents[b]?) ∧
    (t.rdata ≠ [] → t.status = 0#3 ∧ ∃ bv dv len, decode x.cmd = .ok (.rdbuf bv dv len) ∨ decode x.cmd = .ok (.peek bv dv len)) ∧
    ∀ (bv dv : Bool) (len : Nat), decode x.cmd = .ok (.rdbuf bv dv len) ∨ decode x.cmd = .ok (.peek bv dv len) → t.status = 0#3 →
      t.rdata.length = len ∧ ∀ k, k < len → Memory.lookup s.stor ((s.tail.toNat + k) % s.size) = t.rdata[k]?

/-- R70: a step refuses the transaction an agent issues, as PayloadMismatch, exactly when it is ill-formed. -/
def Obligations.IllFormedTransactionRefused : Prop :=
  ∀ (s : State) (a : Nat) (es : List Event) (t : Transaction),
    s.schedule = .issue a :: es → s.fetch a = some t →
    (step s = .refused .payloadMismatch ↔
      ¬ ((∃ bv len, decode t.cmd = .ok (.wrbuf bv true len) ∧ t.wdata.length = len) ∨
         ((¬ ∃ bv len, decode t.cmd = .ok (.wrbuf bv true len)) ∧ t.wdata = [])))

/-- R97: every command completes: a well-formed transaction, legal word or not, has a next state and exactly one of the seven
status codes, in every state that meets the invariant, and a failure has changed nothing but STATUS (RDATA is empty; the payload
stands on the port; CREATE may have made draws). The only refusal is that of an ill-formed transaction. -/
def Obligations.EveryCommandCompletes : Prop :=
  ∀ (s : State) (t : Transaction), s.Inv →
    (t.wellFormed = true →
      ∃ s', transact t s = .next s' ∧ ∃ S : Status, s'.status = S.code ∧
        (s'.status ≠ 0#3 → s' = { s with
          status := s'.status, rdata := [], wdata := t.wdata, allocInput := s'.allocInput, allocDrawn := s'.allocDrawn })) ∧
    (t.wellFormed = false → transact t s = .refused .payloadMismatch)

/-! ### The invariant -/

/-- The invariant holds after reset. -/
def Obligations.ResetMeetsInvariant : Prop := State.reset.Inv

/-- Every step keeps the invariant: legal CAP, HEAD and TAIL below SIZE, no status 6, STOR canonical and within 0 .. CAP, the
live region written, and an unconfigured block as reset left it. -/
def Obligations.StepKeepsInvariant : Prop :=
  ∀ s t : State, s.Inv → step s = .next t → t.Inv

/-- R61: no unwritten byte is ever read. In every state that meets the invariant the step ends in no fault, the queue can be
read, and every byte of it has been written. -/
def Obligations.NoUnwrittenByteRead : Prop :=
  ∀ s : State, s.Inv → (∀ f, step s ≠ .fault f) ∧
    ∃ q : List Byte, s.queue = .ok q ∧ q.length = s.used ∧
      ∀ i, i < s.used → Memory.lookup s.stor ((s.tail.toNat + i) % s.size) = q[i]?

/-- The end of a run (70_reset_and_hazards.md section 5): once every agent's list has been issued, no step but the platform's own
write of GIE and a reset changes anything that the run's observation shows. -/
def Obligations.EndedRunIsObserved : Prop :=
  ∀ s t : State, s.runEnded = true → s.schedule.head? ≠ some .reset → (∀ v, s.schedule.head? ≠ some (.setGie v)) →
    step s = .next t → t.runEnded = true ∧ t.observation = s.observation

/-! ### Derived values -/

/-- R25, R26 and R30: USED and FREE without the modulus, and their bounds. -/
def Obligations.UsedAndFree : Prop :=
  ∀ s : State, s.head.toNat < s.size → s.tail.toNat < s.size →
    s.used = (s.head.toNat + s.size - s.tail.toNat) % s.size ∧
    s.used = (if s.tail.toNat ≤ s.head.toNat then s.head.toNat - s.tail.toNat
      else s.head.toNat + s.size - s.tail.toNat) ∧
    s.free = s.size - s.used - 1 ∧ s.free = s.cap.toNat - s.used ∧ s.used ≤ s.cap.toNat

/-- R27, R28 and R29: EMPTY and FULL, in each of the forms the spec gives them. -/
def Obligations.EmptyAndFull : Prop :=
  ∀ s : State, s.head.toNat < s.size → s.tail.toNat < s.size →
    (s.empty = true ↔ s.head = s.tail) ∧ (s.empty = true ↔ s.used = 0) ∧
    (s.full = true ↔ s.used = s.cap.toNat) ∧ (s.full = true ↔ s.free = 0) ∧
    (s.full = true ↔ (s.head.toNat + 1) % s.size = s.tail.toNat) ∧
    (s.cap = 0#10 → s.empty = true ∧ s.full = true)

/-- R31: USED, FREE, EMPTY and FULL are functions of CAP, HEAD and TAIL. -/
def Obligations.FlagsDependOnIndicesAlone : Prop :=
  ∀ s t : State, s.cap = t.cap → s.head = t.head → s.tail = t.tail →
    s.used = t.used ∧ s.free = t.free ∧ s.empty = t.empty ∧ s.full = t.full

/-- The observation outputs (10_state.md section 3): CFG, CAP, HEAD, TAIL and STATUS are the registers, and USED, FREE, EMPTY and FULL
always agree with each other and with CAP. -/
def Obligations.OutputsAgree : Prop :=
  ∀ s : State, s.head.toNat < s.size → s.tail.toNat < s.size →
    s.outputs.cfg = s.cfg ∧ s.outputs.cap = s.cap ∧ s.outputs.head = s.head ∧ s.outputs.tail = s.tail ∧
    s.outputs.status = s.status ∧ s.outputs.used + s.outputs.free = s.outputs.cap.toNat ∧
    (s.outputs.tail.toNat + s.outputs.used) % (s.outputs.cap.toNat + 1) = s.outputs.head.toNat ∧
    (s.outputs.empty = true ↔ s.outputs.used = 0) ∧ (s.outputs.full = true ↔ s.outputs.free = 0)

/-! ### Addresses -/

/-- R48: the two-segment split, whose first segment is min(LEN, SIZE - base), addresses exactly the sequence of R46 and R47, none of it
past address CAP = SIZE - 1. -/
def Obligations.TwoSegmentSplit : Prop :=
  ∀ base len size : Nat, base < size → len ≤ size →
    firstSegment base len size = min len (size - base) ∧
    segmentAddresses base len size =
      (List.range (min len (size - base))).map (base + ·) ++ List.range (len - min len (size - base)) ∧
    segmentAddresses base len size = (List.range len).map (slotAt base size) ∧
    ∀ a ∈ segmentAddresses base len size, a < size

/-- R49: a successful transfer or consume of LEN bytes has LEN <= CAP and replaces its index with (base + LEN) mod SIZE, a reduction
that needs at most one subtraction. -/
def Obligations.IndexAdvanceSubtractsOnce : Prop :=
  ∀ (s t : State) (i : Instr) (len : Nat), s.head.toNat < s.size → s.tail.toNat < s.size → exec i s = .next t → t.status = 0#3 →
    (((∃ bv dv, i = .wrbuf bv dv len) ∨ ∃ bv b, i = .wrbyte bv b ∧ len = 1) →
      len ≤ s.cap.toNat ∧ s.head.toNat + len ≤ 2 * s.cap.toNat ∧ t.head.toNat = (s.head.toNat + len) % s.size ∧
      t.head.toNat = if s.head.toNat + len ≥ s.size then s.head.toNat + len - s.size else s.head.toNat + len) ∧
    (((∃ bv dv, i = .rdbuf bv dv len) ∨ ∃ bv, i = .consume bv len) →
      len ≤ s.cap.toNat ∧ s.tail.toNat + len ≤ 2 * s.cap.toNat ∧ t.tail.toNat = (s.tail.toNat + len) % s.size ∧
      t.tail.toNat = if s.tail.toNat + len ≥ s.size then s.tail.toNat + len - s.size else s.tail.toNat + len)

/-! ### The encoding -/

/-- A few words of 95_test_vectors.md V-E, written out field by field from R63 and R64: IMM16, RSV, DV, BV, OP. -/
def Obligations.KnownWordsDecode : Prop :=
  decode 0b0000000000000100_0000000000_0_0_0001#32 = .ok (.create 4) ∧
  decode 0b0000000000000100_0000000000_1_1_0010#32 = .ok (.wrbuf true true 4) ∧
  decode 0b0000000011111111_0000000000_0_1_0011#32 = .ok (.wrbyte true 0xFF#8) ∧
  decode 0b0000000000000001_0000000000_0_1_0100#32 = .ok (.rdbuf true false 1) ∧
  decode 0b0000000000000010_0000000000_1_1_0101#32 = .ok (.peek true true 2) ∧
  decode 0b0000000000000010_0000000000_0_1_0110#32 = .ok (.consume true 2) ∧
  decode 0b0000000000000010_0000000000_1_1_0110#32 = .error .reservedBits ∧
  decode 0#32 = .error .reservedOp

/-- Decode and encode agree: decoding the word of a well-formed command gives the command, with every operand. -/
def Obligations.DecodeOfEncode : Prop :=
  ∀ i : Instr, i.wellFormed = true → decode (encode i) = .ok i

/-- Each legal word has one meaning: it is the word of the command it decodes to, and that command is well-formed. -/
def Obligations.EncodeOfDecode : Prop :=
  ∀ (w : Word) (i : Instr), decode w = .ok i → encode i = w ∧ i.wellFormed = true

/-- R68: a word selects a command exactly when it agrees with that command's match under its mask. -/
def Obligations.WordSelectsByMask : Prop :=
  ∀ w : Word,
    ((∃ c, decode w = .ok (.create c)) ↔ w &&& 0x0000FFFF#32 = 0x00000001#32) ∧
    ((∃ bv dv n, decode w = .ok (.wrbuf bv dv n)) ↔ w &&& 0x0000FFCF#32 = 0x00000002#32) ∧
    ((∃ bv b, decode w = .ok (.wrbyte bv b)) ↔ w &&& 0xFF00FFEF#32 = 0x00000003#32) ∧
    ((∃ bv dv n, decode w = .ok (.rdbuf bv dv n)) ↔ w &&& 0x0000FFCF#32 = 0x00000004#32) ∧
    ((∃ bv dv n, decode w = .ok (.peek bv dv n)) ↔ w &&& 0x0000FFCF#32 = 0x00000005#32) ∧
    ((∃ bv n, decode w = .ok (.consume bv n)) ↔ w &&& 0x0000FFEF#32 = 0x00000006#32)

/-- R63 and R67: the operands are BV = CMD[4], DV = CMD[5] and IMM16 = CMD[31:16], zero-extended, and for WRBYTE B = CMD[23:16]
with the bits above it 0; OP = CMD[3:0] is the number of the command (R64) and RSV = CMD[15:6] is 0. -/
def Obligations.OperandsFromTheirFields : Prop :=
  ∀ (w : Word) (i : Instr), decode w = .ok i →
    let bit (k : Nat) : Bool := w.toNat / 2 ^ k % 2 == 1
    let imm := w.toNat / 2 ^ 16
    w.toNat / 2 ^ 6 % 2 ^ 10 = 0 ∧
    match i with
    | .create c => w.toNat % 16 = 1 ∧ c = imm
    | .wrbuf bv dv n => w.toNat % 16 = 2 ∧ bv = bit 4 ∧ dv = bit 5 ∧ n = imm
    | .wrbyte bv b => w.toNat % 16 = 3 ∧ bv = bit 4 ∧ b.toNat = imm ∧ imm < 256
    | .rdbuf bv dv n => w.toNat % 16 = 4 ∧ bv = bit 4 ∧ dv = bit 5 ∧ n = imm
    | .peek bv dv n => w.toNat % 16 = 5 ∧ bv = bit 4 ∧ dv = bit 5 ∧ n = imm
    | .consume bv n => w.toNat % 16 = 6 ∧ bv = bit 4 ∧ n = imm

/-- R72: every word selects exactly one of the six commands or is illegal, and the six patterns are disjoint. -/
def Obligations.DecodingIsTotal : Prop :=
  ∀ w : Word,
    ((∃ op, selects op w = true ∧ decode w = .ok (operandsOf op w) ∧ ∀ op', selects op' w = true → op' = op) ∨
     ((∀ op, selects op w = false) ∧ ∃ e, decode w = .error e)) ∧
    ∀ op op' : Opcode, op ≠ op' → op.number ≠ op'.number ∧ ¬ (selects op w = true ∧ selects op' w = true)

/-- R69: a word whose OP is reserved, or whose OP is assigned but which has a reserved bit set, completes with IllegalCommand (7),
RDATA = [] and no other state change. It comes without a payload (R70; log entry 7). -/
def Obligations.IllegalWordCompletes : Prop :=
  ∀ (w : Word) (s : State),
    (w.toNat % 16 = 0 ∨ 7 ≤ w.toNat % 16 ∨ ∃ op : Opcode, op.number.toNat = w.toNat % 16 ∧ w &&& op.mask ≠ op.fixedBits) →
    s.wdata = [] → runWord w s = .next { s with status := 7#3, rdata := [] }

/-- R51: as bytes the command word is little-endian, and the decoder of the bytes reads the same command. -/
def Obligations.CommandWordLittleEndian : Prop :=
  ∀ (w : Word) (rest : List Byte),
    bytesOfWord w = [w.extractLsb' 0 8, w.extractLsb' 8 8, w.extractLsb' 16 8, w.extractLsb' 24 8] ∧
    decodeBytes (bytesOfWord w ++ rest) = (decode w).map fun i => (i, rest)

/-! ### CREATE -/

/-- CREATE succeeds (40_create.md): the writes of CFG, CAP, HEAD, TAIL and STATUS, the two draws made, the flags, and nothing else. -/
def Obligations.CreateSucceeds : Prop :=
  ∀ (s : State) (c : Nat), s.wdata = [] → s.cfg = false → c ≤ 512 → s.nextDraw = true → s.afterDraw.nextDraw = true →
    ∃ t : State, exec (.create c) s = .next t ∧
      t = { s with
        cfg := true, cap := BitVec.ofNat 10 c, head := 0#10, tail := 0#10, status := 0#3, rdata := [],
        allocInput := s.allocInput.tail.tail, allocDrawn := s.allocDrawn + 2 } ∧
      t.size = c + 1 ∧ t.used = 0 ∧ t.free = c ∧ t.empty = true ∧ (t.full = true ↔ c = 0)

/-- R78: CREATE above MAX_CAP writes no register but STATUS (RDATA is empty) and consumes no ALLOC draw. -/
def Obligations.CreateCapacityExceeded : Prop :=
  ∀ (s : State) (c : Nat), s.wdata = [] → s.cfg = false → 512 < c →
    exec (.create c) s = .next { s with status := 2#3, rdata := [] }

/-- R79: the storage draw first, then the control block's; when either is false CREATE completes with AllocationFailed and the
block is exactly as before, except STATUS. -/
def Obligations.CreateAllocationFailed : Prop :=
  ∀ (s : State) (c : Nat), s.wdata = [] → s.cfg = false → c ≤ 512 →
    (s.nextDraw = false →
      exec (.create c) s = .next { s with
        status := 3#3, rdata := [], allocInput := s.allocInput.tail, allocDrawn := s.allocDrawn + 1 }) ∧
    (s.nextDraw = true → s.afterDraw.nextDraw = false →
      exec (.create c) s = .next { s with
        status := 3#3, rdata := [], allocInput := s.allocInput.tail.tail, allocDrawn := s.allocDrawn + 2 })

/-- R40, R80 and R118: once CFG = 1, no step but a reset changes CFG or CAP, and a CREATE completes with IllegalCommand, makes no
draw and changes nothing else. -/
def Obligations.ConfigurationIsWriteOnce : Prop :=
  (∀ s t : State, s.cfg = true → s.schedule.head? ≠ some .reset → step s = .next t → t.cfg = true ∧ t.cap = s.cap) ∧
  ∀ (s : State) (c : Nat), s.wdata = [] → s.cfg = true → exec (.create c) s = .next { s with status := 7#3, rdata := [] }

/-- R81: CREATE #0 with both draws true succeeds; on an instance with CAP = 0 the indices are 0, the block is always empty and
full, and the transfer commands with a valid handle, data and a non-zero length fail. -/
def Obligations.CapacityZero : Prop :=
  (∀ s : State, s.wdata = [] → s.cfg = false → s.nextDraw = true → s.afterDraw.nextDraw = true →
    ∃ t, exec (.create 0) s = .next t ∧ t.cap = 0#10 ∧ t.size = 1 ∧ t.cfg = true ∧ t.status = 0#3) ∧
  ∀ s : State, s.Inv → s.cfg = true → s.cap = 0#10 →
    s.head = 0#10 ∧ s.tail = 0#10 ∧ s.empty = true ∧ s.full = true ∧ s.used = 0 ∧ s.free = 0 ∧
    (∀ n, 0 < n → s.wdata.length = n → exec (.wrbuf true true n) s = .next { s with status := 4#3, rdata := [] }) ∧
    (s.wdata = [] →
      (∀ b, exec (.wrbyte true b) s = .next { s with status := 4#3, rdata := [] }) ∧
      ∀ n, 0 < n →
        exec (.rdbuf true true n) s = .next { s with status := 5#3, rdata := [] } ∧
        exec (.peek true true n) s = .next { s with status := 5#3, rdata := [] } ∧
        exec (.consume true n) s = .next { s with status := 5#3, rdata := [] })

/-- The frame of CREATE: every register but CFG, CAP, HEAD, TAIL, STATUS and RDATA, GIE (R82), the port, the agents, and every
byte of STOR, for it stores nothing; only the allocator's draws may have been made. -/
def Obligations.CreateFrame : Prop :=
  ∀ (s t : State) (c : Nat), exec (.create c) s = .next t →
    t.gie = s.gie ∧ t.wdata = s.wdata ∧ t.agents = s.agents ∧ t.schedule = s.schedule ∧ t.responses = s.responses ∧
    (∀ a, Memory.lookup t.stor a = Memory.lookup s.stor a) ∧
    (t.status ≠ 0#3 → t.cfg = s.cfg ∧ t.cap = s.cap ∧ t.head = s.head ∧ t.tail = s.tail)

/-! ### WRBUF and WRBYTE -/

/-- R46: a successful WRBUF writes byte k of its payload to (HEAD + k) mod SIZE and no other byte, and advances HEAD. It completes
so for every payload that fits. -/
def Obligations.WrbufAppends : Prop :=
  ∀ (s : State) (len : Nat), s.cfg = true → s.cap.toNat ≤ 512 → s.wdata.length = len → 0 < len → len ≤ s.free →
    ∃ m : Memory,
      exec (.wrbuf true true len) s = .next { s with
        stor := m, head := BitVec.ofNat 10 ((s.head.toNat + len) % s.size), status := 0#3, rdata := [] } ∧
      (Memory.wf s.stor → Memory.wf m) ∧
      (∀ k, k < len → Memory.lookup m ((s.head.toNat + k) % s.size) = s.wdata[k]?) ∧
      ∀ a, (∀ k, k < len → a ≠ (s.head.toNat + k) % s.size) → Memory.lookup m a = Memory.lookup s.stor a

/-- A successful WRBYTE writes B to HEAD and advances HEAD by one (41_write.md). It completes so whenever FREE is not 0. -/
def Obligations.WrbyteAppends : Prop :=
  ∀ (s : State) (b : Byte), s.cfg = true → s.cap.toNat ≤ 512 → s.head.toNat < s.size → s.wdata = [] → 0 < s.free →
    ∃ m : Memory,
      exec (.wrbyte true b) s = .next { s with
        stor := m, head := BitVec.ofNat 10 ((s.head.toNat + 1) % s.size), status := 0#3, rdata := [] } ∧
      Memory.lookup m s.head.toNat = some b ∧
      ∀ a, a ≠ s.head.toNat → Memory.lookup m a = Memory.lookup s.stor a

/-- The flags of a successful write (41_write.md): USED grows by LEN, FREE shrinks by LEN, EMPTY becomes 0, FULL becomes 1 exactly
when LEN was FREE, and the payload goes to the end of the queue. -/
def Obligations.WriteFlags : Prop :=
  ∀ (s t : State) (i : Instr) (w : List Byte), s.Inv → s.wdata.length = i.payloadLen →
    ((∃ len, i = .wrbuf true true len ∧ w = s.wdata) ∨ ∃ b, i = .wrbyte true b ∧ w = [b]) →
    exec i s = .next t → t.status = 0#3 →
    t.used = s.used + w.length ∧ t.free + w.length = s.free ∧ t.empty = false ∧ (t.full = true ↔ w.length = s.free) ∧
    t.queueBytes = s.queueBytes ++ w

/-- R84: a WRBUF whose LEN equals FREE succeeds, fills the buffer, and leaves exactly the slot at HEAD outside the live region. -/
def Obligations.ExactFit : Prop :=
  ∀ (s : State) (len : Nat), s.Inv → s.cfg = true → s.wdata.length = len → 0 < len → len = s.free →
    ∃ t : State, exec (.wrbuf true true len) s = .next t ∧ t.status = 0#3 ∧ t.used = t.cap.toNat ∧ t.cap = s.cap ∧
      t.free = 0 ∧ t.full = true ∧
      ∀ a, a < t.size → ((∀ i, i < t.used → a ≠ (t.tail.toNat + i) % t.size) ↔ a = t.head.toNat)

/-- R88: WRBYTE #b gives the same STATUS, CFG, CAP, HEAD, TAIL, STOR and RDATA as WRBUF #1 with that byte. -/
def Obligations.WrbyteIsWrbufOfOneByte : Prop :=
  ∀ (s : State) (bv : Bool) (b : Byte), s.Inv → ∃ t : State,
    exec (.wrbyte bv b) (s.putWdata []) = .next (t.putWdata []) ∧
    exec (.wrbuf bv true 1) (s.putWdata [b]) = .next (t.putWdata [b])

/-- The frame of the write commands: TAIL, CAP, CFG, GIE, the allocator, the port, the agents, and every byte of STOR outside the
slots the command stores to; HEAD too when it fails. -/
def Obligations.WriteFrame : Prop :=
  ∀ (s t : State) (i : Instr) (len : Nat), ((∃ bv dv, i = .wrbuf bv dv len) ∨ ∃ bv b, i = .wrbyte bv b ∧ len = 1) →
    s.head.toNat < s.size → exec i s = .next t →
    t.cfg = s.cfg ∧ t.cap = s.cap ∧ t.tail = s.tail ∧ t.gie = s.gie ∧ t.allocInput = s.allocInput ∧
    t.allocDrawn = s.allocDrawn ∧ t.wdata = s.wdata ∧ t.agents = s.agents ∧ t.schedule = s.schedule ∧
    t.responses = s.responses ∧ t.rdata = [] ∧
    (∀ a, (∀ k, k < len → a ≠ slotAt s.head.toNat s.size k) → Memory.lookup t.stor a = Memory.lookup s.stor a) ∧
    (t.status ≠ 0#3 → t.head = s.head ∧ ∀ a, Memory.lookup t.stor a = Memory.lookup s.stor a)

/-! ### RDBUF, PEEK and CONSUME -/

/-- R47: a successful RDBUF or PEEK returns MemRead((TAIL + k) mod SIZE) as its k-th byte; RDBUF advances TAIL and PEEK does not.
They complete so whenever the bytes they read are held and written. -/
def Obligations.ReadsReturnOldest : Prop :=
  ∀ (s : State) (len : Nat), s.cfg = true → s.cap.toNat ≤ 512 → s.wdata = [] → 0 < len → len ≤ s.used →
    (∀ k, k < len → (Memory.lookup s.stor ((s.tail.toNat + k) % s.size)).isSome) →
    ∃ vs : List Byte, vs.length = len ∧
      (∀ k, k < len → Memory.lookup s.stor ((s.tail.toNat + k) % s.size) = vs[k]?) ∧
      exec (.rdbuf true true len) s = .next { s with
        tail := BitVec.ofNat 10 ((s.tail.toNat + len) % s.size), status := 0#3, rdata := vs } ∧
      exec (.peek true true len) s = .next { s with status := 0#3, rdata := vs }

/-- A successful CONSUME advances TAIL and returns nothing (42_read.md); USED shrinks by LEN, and EMPTY becomes 1 exactly when LEN
was USED. It completes so whenever the bytes are held. -/
def Obligations.ConsumeDiscards : Prop :=
  ∀ (s : State) (len : Nat), s.cfg = true → s.wdata = [] → s.head.toNat < s.size → s.tail.toNat < s.size → 0 < len →
    len ≤ s.used →
    ∃ t : State, exec (.consume true len) s = .next t ∧
      t = { s with tail := BitVec.ofNat 10 ((s.tail.toNat + len) % s.size), status := 0#3, rdata := [] } ∧
      t.used + len = s.used ∧ t.free = s.free + len ∧ t.full = false ∧ (t.empty = true ↔ len = s.used)

/-- The frame of the read commands: they store nothing, so every byte of STOR stays, and so do HEAD, CAP, CFG, GIE, the allocator,
the port and the agents; TAIL stays too for PEEK and for a failure. -/
def Obligations.ReadFrame : Prop :=
  ∀ (s t : State) (i : Instr),
    ((∃ bv dv len, i = .rdbuf bv dv len ∨ i = .peek bv dv len) ∨ ∃ bv len, i = .consume bv len) → exec i s = .next t →
    t.cfg = s.cfg ∧ t.cap = s.cap ∧ t.head = s.head ∧ t.gie = s.gie ∧ t.allocInput = s.allocInput ∧
    t.allocDrawn = s.allocDrawn ∧ t.wdata = s.wdata ∧ t.agents = s.agents ∧ t.schedule = s.schedule ∧
    t.responses = s.responses ∧ (∀ a, Memory.lookup t.stor a = Memory.lookup s.stor a) ∧
    ((t.status ≠ 0#3 ∨ ∃ bv dv len, i = .peek bv dv len) → t.tail = s.tail)

/-- R93: PEEK #n then CONSUME #n leaves what RDBUF #n leaves and PEEK returns RDBUF's bytes; when RDBUF fails both fail with its
status and change nothing; and the equivalence does not hold for the .ND forms. -/
def Obligations.PeekThenConsumeIsRead : Prop :=
  ∀ (s : State) (n : Nat), s.Inv → s.wdata = [] → ∃ p c r : State,
    exec (.peek true true n) s = .next p ∧ exec (.consume true n) p = .next c ∧ exec (.rdbuf true true n) s = .next r ∧
    c = { r with rdata := [] } ∧ p.rdata = r.rdata ∧ (r.status = 0#3 → p.status = 0#3 ∧ c.status = 0#3) ∧
    (r.status ≠ 0#3 → p = { s with status := r.status, rdata := [] } ∧ c = p) ∧
    (s.cfg = true → 0 < n → n ≤ s.used →
      exec (.peek true false n) s = .next { s with status := 1#3, rdata := [] } ∧
      exec (.rdbuf true false n) s = .next { s with status := 1#3, rdata := [] } ∧
      ∃ d, exec (.consume true n) { s with status := 1#3, rdata := [] } = .next d ∧ d.status = 0#3 ∧ d.tail ≠ s.tail)

/-- PEEK is repeatable (42_read.md R91: it writes no register but STATUS): a second PEEK with nothing between gives the same response and the same state. -/
def Obligations.PeekIsRepeatable : Prop :=
  ∀ (s t : State) (bv dv : Bool) (n : Nat), exec (.peek bv dv n) s = .next t → exec (.peek bv dv n) t = .next t

/-- R44: after reset and after CREATE no byte of STOR has a value, a RDBUF or PEEK that would read an unwritten byte faults instead of
returning one, and no sequence of commands after a reset, however interleaved, reaches that fault. -/
def Obligations.UnwrittenBytesHaveNoValue : Prop :=
  (∀ a, Memory.lookup State.reset.stor a = none) ∧
  (∀ (s t : State) (c : Nat), s.Inv → exec (.create c) s = .next t → t.status = 0#3 →
    ∀ a, Memory.lookup t.stor a = none) ∧
  (∀ (s : State) (k : Nat), safeRun k s.blockReset) ∧
  ∀ (s : State) (len k : Nat), s.cfg = true → s.cap.toNat ≤ 512 → s.wdata = [] → k < len → len ≤ s.used →
    (∀ j, j < k → (Memory.lookup s.stor ((s.tail.toNat + j) % s.size)).isSome) →
    Memory.lookup s.stor ((s.tail.toNat + k) % s.size) = none →
    exec (.rdbuf true true len) s = .fault (.unwrittenRead ((s.tail.toNat + k) % s.size)) ∧
    exec (.peek true true len) s = .fault (.unwrittenRead ((s.tail.toNat + k) % s.size))

/-! ### Statuses -/

/-- R99: a command completes with InvalidArgument exactly for a null or absent handle, a null data pointer or a zero length;
CREATE never does. -/
def Obligations.InvalidArgumentCauses : Prop :=
  ∀ (s t : State) (i : Instr), exec i s = .next t →
    (t.status = 1#3 ↔
      match i with
      | .create _ => False
      | .wrbuf bv dv n => bv = false ∨ s.cfg = false ∨ dv = false ∨ n = 0
      | .wrbyte bv _ => bv = false ∨ s.cfg = false
      | .rdbuf bv dv n => bv = false ∨ s.cfg = false ∨ dv = false ∨ n = 0
      | .peek bv dv n => bv = false ∨ s.cfg = false ∨ dv = false ∨ n = 0
      | .consume bv n => bv = false ∨ s.cfg = false ∨ n = 0)

/-- R65: the handle is valid exactly when BV = 1 and CFG = 1: without it each of the five commands completes with
InvalidArgument and changes nothing else; and for CREATE, which takes no handle, BV must be 0. -/
def Obligations.InvalidHandleFails : Prop :=
  (∀ (s : State) (i : Instr) (bv : Bool), s.wdata.length = i.payloadLen →
    ((∃ dv n, i = .wrbuf bv dv n ∨ i = .rdbuf bv dv n ∨ i = .peek bv dv n) ∨ (∃ b, i = .wrbyte bv b) ∨
      ∃ n, i = .consume bv n) →
    (s.handleValid bv = true ↔ bv = true ∧ s.cfg = true) ∧
    (¬ (bv = true ∧ s.cfg = true) → exec i s = .next { s with status := 1#3, rdata := [] })) ∧
  ∀ (w : Word) (c : Nat), decode w = .ok (.create c) → w.getLsbD 4 = false

/-- R100 and R101: only CREATE completes with CapacityExceeded or AllocationFailed, for a capacity above MAX_CAP and for a false
draw. -/
def Obligations.CreateStatusCauses : Prop :=
  ∀ (s t : State) (i : Instr), exec i s = .next t →
    (t.status = 2#3 ↔ ∃ c, i = .create c ∧ s.cfg = false ∧ Config.maxCap < c) ∧
    (t.status = 3#3 ↔ ∃ c, i = .create c ∧ s.cfg = false ∧ c ≤ Config.maxCap ∧
      (s.nextDraw = false ∨ s.afterDraw.nextDraw = false))

/-- R102 and R103: InsufficientSpace is a write's, for LEN above FREE (WRBYTE: FREE = 0), and InsufficientData a read's, for LEN
above USED, once the arguments are valid (R105). -/
def Obligations.InsufficientCauses : Prop :=
  ∀ (s t : State) (i : Instr), exec i s = .next t →
    (t.status = 4#3 ↔
      (∃ n, i = .wrbuf true true n ∧ s.cfg = true ∧ n ≠ 0 ∧ s.free < n) ∨
      ∃ b, i = .wrbyte true b ∧ s.cfg = true ∧ s.free = 0) ∧
    (t.status = 5#3 ↔ ∃ n, (i = .rdbuf true true n ∨ i = .peek true true n ∨ i = .consume true n) ∧ s.cfg = true ∧
      n ≠ 0 ∧ s.used < n)

/-- R104: a word completes with IllegalCommand exactly when it is illegal or is a CREATE on a configured block; code 6 is never
produced. -/
def Obligations.IllegalCommandCauses : Prop :=
  ∀ (s t : State) (w : Word), runWord w s = .next t →
    (t.status = 7#3 ↔ (∀ op, selects op w = false) ∨ ((∃ c, decode w = .ok (.create c)) ∧ s.cfg = true)) ∧
    t.status ≠ 6#3

/-- R105: when several causes apply, the command reports the first in the spec's order. -/
def Obligations.StatusPriority : Prop :=
  ∀ (s t : State) (w : Word), runWord w s = .next t →
    t.status =
      match decode w with
      | .error _ => 7#3
      | .ok (.create c) =>
        if s.cfg then 7#3 else if Config.maxCap < c then 2#3 else if s.nextDraw = false then 3#3
        else if s.afterDraw.nextDraw = false then 3#3 else 0#3
      | .ok (.wrbuf bv dv n) =>
        if bv = false ∨ s.cfg = false ∨ dv = false ∨ n = 0 then 1#3 else if s.free < n then 4#3 else 0#3
      | .ok (.wrbyte bv _) => if bv = false ∨ s.cfg = false then 1#3 else if s.free = 0 then 4#3 else 0#3
      | .ok (.rdbuf bv dv n) =>
        if bv = false ∨ s.cfg = false ∨ dv = false ∨ n = 0 then 1#3 else if s.used < n then 5#3 else 0#3
      | .ok (.peek bv dv n) =>
        if bv = false ∨ s.cfg = false ∨ dv = false ∨ n = 0 then 1#3 else if s.used < n then 5#3 else 0#3
      | .ok (.consume bv n) =>
        if bv = false ∨ s.cfg = false ∨ n = 0 then 1#3 else if s.used < n then 5#3 else 0#3

/-- R85, R95 and R98: a command that completes with any status but OK leaves everything as it was but STATUS, and RDATA = []
(CREATE may have made draws); only a successful RDBUF or PEEK has a non-empty RDATA. -/
def Obligations.FailureChangesStatusAlone : Prop :=
  ∀ (s t : State) (w : Word), runWord w s = .next t →
    (t.status ≠ 0#3 → t = { s with
      status := t.status, rdata := [], allocInput := t.allocInput, allocDrawn := t.allocDrawn }) ∧
    ((¬ ∃ c, decode w = .ok (.create c)) → t.allocInput = s.allocInput ∧ t.allocDrawn = s.allocDrawn) ∧
    (t.rdata ≠ [] → t.status = 0#3 ∧ ∃ bv dv n, decode w = .ok (.rdbuf bv dv n) ∨ decode w = .ok (.peek bv dv n))

/-- R32: the writers of each register. -/
def Obligations.WritersOfRegisters : Prop :=
  ∀ (s t : State) (i : Instr), exec i s = .next t →
    (t.head ≠ s.head → t.status = 0#3 ∧ ((∃ c, i = .create c ∧ t.head = 0#10) ∨ (∃ bv dv n, i = .wrbuf bv dv n) ∨
      ∃ bv b, i = .wrbyte bv b)) ∧
    (t.tail ≠ s.tail → t.status = 0#3 ∧ ((∃ c, i = .create c ∧ t.tail = 0#10) ∨ (∃ bv dv n, i = .rdbuf bv dv n) ∨
      ∃ bv n, i = .consume bv n)) ∧
    ((∃ bv dv n, i = .peek bv dv n) → t.head = s.head ∧ t.tail = s.tail) ∧
    ((t.cap ≠ s.cap ∨ t.cfg ≠ s.cfg) → t.status = 0#3 ∧ ∃ c, i = .create c) ∧
    ∀ c, exec i { s with status := c } = .next t

/-! ### GIE -/

/-- R110: each of the five commands runs its checks and body with GIE = 0 and sets GIE again on every exit path, only if it was set;
the net effect of every command, of CREATE and of illegal words is GIE after = GIE before. -/
def Obligations.GieRestored : Prop :=
  (∀ (s t : State) (body : State → Except Fault State) (i : Instr),
    ((∃ bv dv n, i = .wrbuf bv dv n ∧ body = wrbufBody bv dv n) ∨ (∃ bv b, i = .wrbyte bv b ∧ body = wrbyteBody bv b) ∨
      (∃ bv dv n, i = .rdbuf bv dv n ∧ body = rdbufBody bv dv n) ∨ (∃ bv dv n, i = .peek bv dv n ∧ body = peekBody bv dv n) ∨
      ∃ bv n, i = .consume bv n ∧ body = consumeBody bv n) →
    exec i s = .next t →
    ∃ u, body { s with gie := false } = .ok u ∧ u.gie = false ∧ t = if s.gie then { u with gie := true } else u) ∧
  ∀ (s t : State) (w : Word), runWord w s = .next t → t.gie = s.gie

/-- R112: a command issued with GIE = 0 behaves exactly as with GIE = 1, and ends with GIE = 0. -/
def Obligations.GieDoesNotMatter : Prop :=
  ∀ (s t : State) (i : Instr), s.gie = true → exec i s = .next t →
    exec i { s with gie := false } = .next { t with gie := false }

/-- At every command boundary GIE is what the platform last set (10_state.md section 3): only the platform's own event changes it. -/
def Obligations.GieBelongsToPlatform : Prop :=
  ∀ s t : State, step s = .next t →
    t.gie = match s.schedule.head? with
      | some (.setGie v) => v
      | _ => s.gie

/-! ### The queue -/

/-- The block is the abstract queue: in every state that meets the invariant each command completes, and its status, its bytes
and the queue it leaves are those of the abstract queue (10_state.md R45's Q; the queue terms of each command). -/
def Obligations.BlockRefinesQueue : Prop :=
  ∀ (s : State) (i : Instr), s.Inv → s.wdata.length = i.payloadLen →
    ∃ t : State, exec i s = .next t ∧
      (⟨t.fifo, t.status, t.rdata⟩ : FifoResult) = s.fifo.run s.wdata (s.nextDraw && s.afterDraw.nextDraw) i

/-- R94: after successful writes w1 .. wk with nothing between, a RDBUF returns the bytes previously in Q followed by
w1 ++ .. ++ wk, truncated to LEN. -/
def Obligations.FifoOrdering : Prop :=
  ∀ (s : State) (ws : List (Transaction × List Byte)) (rd : Transaction) (n : Nat),
    s.Inv → s.cfg = true → (∀ w ∈ ws, w.1.writes = some w.2) →
    decode rd.cmd = .ok (.rdbuf true true n) → rd.wdata = [] → 0 < n →
    (ws.map fun w => w.2.length).sum ≤ s.free → n ≤ s.used + (ws.map fun w => w.2.length).sum →
    ∃ t : State, transactAll (ws.map Prod.fst ++ [rd]) s = .next t ∧ t.status = 0#3 ∧
      t.rdata = (s.queueBytes ++ (ws.map Prod.snd).flatten).take n

/-- R96: drained equals fresh, but for the indices. A drained instance is as empty as a fresh one of the same capacity, and two
states with the same queue answer every run of commands with the same responses and stay so. -/
def Obligations.DrainedEqualsFresh : Prop :=
  (∀ s t : State, s.Inv → t.Inv → s.cfg = true → t.cfg = true → s.cap = t.cap → s.used = 0 → t.head = 0#10 → t.tail = 0#10 →
    s.free = s.cap.toNat ∧ s.empty = true ∧ (0 < s.cap.toNat → s.full = false) ∧ s.fifo = t.fifo) ∧
  ∀ (k : Nat) (s t s' : State), s.Inv → t.Inv → SameQueue s t → Host.Core.run core k s = .next s' →
    ∃ t' : State, Host.Core.run core k t = .next t' ∧ SameQueue s' t' ∧ s'.used = t'.used ∧ s'.free = t'.free ∧
      ∃ rs : List Completion, s'.responses = s.responses ++ rs ∧ t'.responses = t.responses ++ rs

/-- R123: under the single-producer/single-consumer discipline a USED the consumer observes is a lower bound at its next command,
and a FREE the producer observes is one at its next command; so the read or the write that the observation allows does not
fail for want of data or space. Without the discipline neither bound holds. -/
def Obligations.PolledValuesAreLowerBounds : Prop :=
  (∀ (k : Nat) (s s' : State), s.Inv → Host.Core.run core k s = .next s' →
    (s.phaseAvoids Instr.drains k = true →
      s.used ≤ s'.used ∧
      ∀ (bv dv : Bool) (n : Nat) (t : State), n ≤ s.used → exec (.rdbuf bv dv n) (s'.putWdata []) = .next t →
        t.status ≠ 5#3) ∧
    (s.phaseAvoids Instr.fills k = true →
      s.free ≤ s'.free ∧
      ∀ (bv dv : Bool) (n : Nat) (w : List Byte) (t : State), n ≤ s.free →
        exec (.wrbuf bv dv n) (s'.putWdata w) = .next t → t.status ≠ 4#3) ∧
    (s.phaseAvoids Instr.fills k = true → 0 < s.free →
      ∀ (bv : Bool) (b : Byte) (t : State), exec (.wrbyte bv b) (s'.putWdata []) = .next t → t.status ≠ 4#3)) ∧
  (∃ s s' : State, s.Inv ∧ Host.Core.run core 1 s = .next s' ∧ s'.used < s.used) ∧
  ∃ s s' : State, s.Inv ∧ Host.Core.run core 1 s = .next s' ∧ s'.free < s.free
end

