-- ==== Sys2Proof/Laws/Encoding.lean ====
section
/-! SUPPORT. What the fields and the row masks (R68) read from a word laid out by `packWord`. -/

namespace Sys2Proof

/-- The low half of a word: RSV, DV, BV and OP. -/
def lowHalf (op : Opcode) (bv dv : Bool) : BitVec 16 := 0#10 ++ (BitVec.ofBool dv ++ (BitVec.ofBool bv ++ op.number))

theorem packWord_eq (op : Opcode) (bv dv : Bool) (imm : BitVec 16) : packWord op bv dv imm = imm ++ lowHalf op bv dv := rfl

theorem opField_packWord (op : Opcode) (bv dv : Bool) (imm : BitVec 16) : opField (packWord op bv dv imm) = op.number := by
  rw [packWord_eq, opField, BitVec.extractLsb'_append_eq_of_add_le (by decide)]
  cases op <;> cases bv <;> cases dv <;> decide

theorem bvField_packWord (op : Opcode) (bv dv : Bool) (imm : BitVec 16) : bvField (packWord op bv dv imm) = bv := by
  rw [packWord_eq, bvField, BitVec.getLsbD_append, if_pos (by decide)]
  cases op <;> cases bv <;> cases dv <;> decide

theorem dvField_packWord (op : Opcode) (bv dv : Bool) (imm : BitVec 16) : dvField (packWord op bv dv imm) = dv := by
  rw [packWord_eq, dvField, BitVec.getLsbD_append, if_pos (by decide)]
  cases op <;> cases bv <;> cases dv <;> decide

theorem immField_packWord (op : Opcode) (bv dv : Bool) (imm : BitVec 16) : immField (packWord op bv dv imm) = imm := by
  rw [packWord_eq, immField, BitVec.extractLsb'_append_eq_of_le (Nat.le_refl _)]
  exact BitVec.extractLsb'_eq_self

theorem byteField_packWord (op : Opcode) (bv dv : Bool) (b : Byte) :
    byteField (packWord op bv dv (0#8 ++ b)) = b := by
  rw [packWord_eq, byteField, BitVec.extractLsb'_append_eq_of_le (Nat.le_refl _)]
  exact BitVec.extractLsb'_append_eq_right

/-- The mask of a row splits into the half of the operand and the half of RSV, DV, BV and OP. -/
theorem Opcode.mask_split (op : Opcode) : op.mask = op.mask.extractLsb' 16 16 ++ op.mask.extractLsb' 0 16 := by
  cases op <;> decide

theorem Opcode.fixedBits_split (op : Opcode) : op.fixedBits = 0#16 ++ op.fixedBits.extractLsb' 0 16 := by
  cases op <;> decide

/-- A row's mask on a packed word, half by half. -/
theorem selects_packWord (row op : Opcode) (bv dv : Bool) (imm : BitVec 16) :
    selects row (packWord op bv dv imm) = true ↔
      imm &&& row.mask.extractLsb' 16 16 = 0#16 ∧
        lowHalf op bv dv &&& row.mask.extractLsb' 0 16 = row.fixedBits.extractLsb' 0 16 := by
  have split : packWord op bv dv imm &&& row.mask =
      (imm &&& row.mask.extractLsb' 16 16) ++ (lowHalf op bv dv &&& row.mask.extractLsb' 0 16) := by
    rw [← BitVec.and_append, ← Opcode.mask_split, packWord_eq]
  have fixed := Opcode.fixedBits_split row
  generalize row.mask.extractLsb' 16 16 = hiMask at *
  generalize row.mask.extractLsb' 0 16 = loMask at *
  generalize row.fixedBits.extractLsb' 0 16 = loFixed at *
  rw [selects, beq_iff_eq, split, fixed]
  constructor
  · intro h
    have hi := congrArg (BitVec.extractLsb' 16 16) h
    have lo := congrArg (BitVec.extractLsb' 0 16) h
    simpa only [BitVec.extractLsb'_append_eq_left, BitVec.extractLsb'_append_eq_right] using And.intro hi lo
  · rintro ⟨hi, lo⟩
    rw [hi, lo]

/-- The row that a selected word belongs to has that row's OP number, so the rows are disjoint. -/
theorem opField_of_selects {op : Opcode} {w : Word} (h : selects op w = true) : opField w = op.number := by
  have h' := congrArg opField (beq_iff_eq.mp h)
  have low : opField (w &&& op.mask) = opField w := by
    unfold opField
    rw [BitVec.extractLsb'_and]
    have : BitVec.extractLsb' 0 4 op.mask = BitVec.allOnes 4 := by cases op <;> decide
    rw [this, BitVec.and_allOnes]
  rw [← low, h']
  cases op <;> decide

theorem opcodeOf_number (op : Opcode) : opcodeOf op.number = some op := by cases op <;> decide

/-- A selected word decodes to that row's command. -/
theorem decode_of_selects {op : Opcode} {w : Word} (h : selects op w = true) : decode w = .ok (operandsOf op w) := by
  simp [decode, opField_of_selects h, opcodeOf_number, h]

/-- A word that decodes is selected by its command's row. -/
theorem selects_of_decode {w : Word} {i : Instr} (h : decode w = .ok i) : selects i.opcode w = true ∧ i = operandsOf i.opcode w := by
  unfold decode at h
  split at h
  · cases h
  · rename_i op hop
    split at h
    · rename_i hs
      obtain rfl : operandsOf op w = i := by simpa using h
      cases op <;> exact ⟨hs, rfl⟩
    · cases h

end Sys2Proof
end

