-- ==== Sys2Proof/Laws/Memory.lean ====
section
/-! SUPPORT. The laws of STOR: reading after writing, the canonical form, and what the read and write loops do. -/

namespace Sys2Proof.Machine

/-! ### One byte -/

theorem Memory.lookup_put (m : Memory) (a b : Nat) (v : Byte) :
    (m.put a v).lookup b = if b = a then some v else m.lookup b := by
  induction m with
  | nil => simp [Memory.put, Memory.lookup, eq_comm]
  | cons c m ih =>
    unfold Memory.put
    split
    · simp only [Memory.lookup]
      grind
    · split <;> simp only [Memory.lookup] <;> grind

theorem Memory.mem_put {m : Memory} {a : Nat} {v : Byte} {c : Host.Cell} (h : c ∈ m.put a v) : c = (a, v) ∨ c ∈ m := by
  induction m with
  | nil => simpa [Memory.put] using h
  | cons d m ih =>
    unfold Memory.put at h
    split at h
    · simpa using h
    · split at h
      · grind
      · grind

/-- The canonical form is kept by a write. -/
theorem Memory.wf_put (m : Memory) (hm : m.wf) (a : Nat) (v : Byte) : (m.put a v).wf := by
  induction m with
  | nil => simp [Memory.put]
  | cons c m ih =>
    obtain ⟨hc, hm⟩ := List.pairwise_cons.mp hm
    unfold Memory.put
    split
    · refine List.pairwise_cons.mpr ⟨?_, List.pairwise_cons.mpr ⟨hc, hm⟩⟩
      intro d hd
      rcases List.mem_cons.mp hd with rfl | hd
      · assumption
      · have := hc d hd
        omega
    · split
      · subst a
        exact List.pairwise_cons.mpr ⟨hc, hm⟩
      · refine List.pairwise_cons.mpr ⟨?_, ih hm⟩
        intro d hd
        rcases Memory.mem_put hd with rfl | hd
        · simp only
          omega
        · exact hc d hd

theorem memRead_eq_ok {m : Memory} {a : Nat} {v : Byte} :
    memRead m a = .ok v ↔ a ≤ Config.maxCap ∧ m.lookup a = some v := by
  unfold memRead
  split
  · split <;> simp_all
  · simp_all

theorem memWrite_eq_ok {m m' : Memory} {a : Nat} {v : Byte} :
    memWrite m a v = .ok m' ↔ a ≤ Config.maxCap ∧ m' = m.put a v := by
  unfold memWrite
  split <;> simp_all [eq_comm]

theorem memWrite_wf {m m' : Memory} {a : Nat} {v : Byte} (hm : m.wf) (h : memWrite m a v = .ok m') : m'.wf := by
  obtain ⟨-, rfl⟩ := memWrite_eq_ok.mp h
  exact Memory.wf_put m hm a v

/-! ### Addresses -/

theorem slotAt_lt (base k : Nat) {size : Nat} (h : 0 < size) : slotAt base size k < size := Nat.mod_lt _ h

/-- Two bytes of one transfer of at most SIZE bytes have different addresses. -/
theorem slotAt_injective {base size i j : Nat} (hi : i < size) (hj : j < size)
    (h : slotAt base size i = slotAt base size j) : i = j := by
  have h' : i ≡ j [MOD size] := Nat.ModEq.add_left_cancel' base h
  rwa [Nat.ModEq, Nat.mod_eq_of_lt hi, Nat.mod_eq_of_lt hj] at h'

theorem slotAt_slotAt (base size i j : Nat) : slotAt (slotAt base size i) size j = slotAt base size (i + j) := by
  simp [slotAt, Nat.mod_add_mod, Nat.add_assoc]

/-! ### The write loop -/

/-- Everything the write loop can do: it keeps the canonical form, lists no address at or above SIZE that was not listed, puts
the bytes at their addresses and leaves every other address alone. -/
theorem writeFrom_spec {base size : Nat} {vs : List Byte} {k : Nat} {m m' : Memory} (hs : 0 < size)
    (hk : k + vs.length ≤ size) (h : writeFrom base size k vs m = .ok m') :
    (m.wf → m'.wf) ∧ (∀ c ∈ m', c ∈ m ∨ c.1 < size) ∧
      (∀ j, j < vs.length → m'.lookup (slotAt base size (k + j)) = vs[j]?) ∧
      ∀ a, (∀ j, j < vs.length → a ≠ slotAt base size (k + j)) → m'.lookup a = m.lookup a := by
  induction vs generalizing k m with
  | nil =>
    obtain rfl : m = m' := by simpa [writeFrom] using h
    exact ⟨id, fun c hc => .inl hc, by simp, by simp⟩
  | cons v vs ih =>
    simp only [List.length_cons] at hk
    unfold writeFrom at h
    split at h
    · cases h
    · rename_i m1 h1
      obtain ⟨-, rfl⟩ := memWrite_eq_ok.mp h1
      obtain ⟨hwf, hmem, hin, hout⟩ := ih (by omega) h
      refine ⟨fun hm => hwf (Memory.wf_put m hm _ _), ?_, ?_, ?_⟩
      · intro c hc
        rcases hmem c hc with hc | hc
        · rcases Memory.mem_put hc with rfl | hc
          · exact .inr (slotAt_lt _ _ hs)
          · exact .inl hc
        · exact .inr hc
      · intro j hj
        cases j with
        | zero =>
          rw [hout, Memory.lookup_put]
          · simp
          · intro i hi heq
            simp only [List.length_cons] at hj
            have := slotAt_injective (base := base) (size := size) (by omega) (by omega) heq
            omega
        | succ j =>
          have := hin j (by simpa using hj)
          rw [show k + (j + 1) = k + 1 + j by omega, this]
          simp
      · intro a ha
        rw [hout, Memory.lookup_put, if_neg]
        · simpa using ha 0 (by simp)
        · intro j hj
          have := ha (j + 1) (by simpa using hj)
          rwa [show k + (j + 1) = k + 1 + j by omega] at this

/-- The write loop completes when every slot exists. -/
theorem writeFrom_completes (base : Nat) {size : Nat} (k : Nat) (vs : List Byte) (m : Memory) (hs : 0 < size)
    (hcap : size ≤ Config.maxCap + 1) : ∃ m', writeFrom base size k vs m = .ok m' := by
  induction vs generalizing k m with
  | nil => exact ⟨m, rfl⟩
  | cons v vs ih =>
    obtain ⟨m', h'⟩ := ih (k + 1) (m.put (slotAt base size k) v)
    refine ⟨m', ?_⟩
    have hle : slotAt base size k ≤ Config.maxCap := by
      have := slotAt_lt base k hs
      omega
    simp [writeFrom, memWrite, hle, h']

/-! ### The read loop -/

/-- Everything the read loop can answer: the bytes at its addresses, in order. -/
theorem readFrom_spec {m : Memory} {base size n k : Nat} {vs : List Byte} (h : readFrom m base size k n = .ok vs) :
    vs.length = n ∧ ∀ j, j < n → m.lookup (slotAt base size (k + j)) = vs[j]? := by
  induction n generalizing k vs with
  | zero =>
    obtain rfl : [] = vs := by simpa [readFrom] using h
    simp
  | succ n ih =>
    unfold readFrom at h
    split at h
    · cases h
    · rename_i v hv
      split at h
      · cases h
      · rename_i vs' hvs
        obtain rfl : v :: vs' = vs := by simpa using h
        obtain ⟨hl, hj⟩ := ih hvs
        refine ⟨by simp [hl], ?_⟩
        intro j hjn
        cases j with
        | zero => simpa using (memRead_eq_ok.mp hv).2
        | succ j =>
          have := hj j (by omega)
          rw [show k + (j + 1) = k + 1 + j by omega, this]
          simp

/-- The read loop completes when every slot exists and has been written. -/
theorem readFrom_completes {m : Memory} {base size n k : Nat} (hs : 0 < size) (hcap : size ≤ Config.maxCap + 1)
    (h : ∀ j, j < n → (m.lookup (slotAt base size (k + j))).isSome) : ∃ vs, readFrom m base size k n = .ok vs := by
  induction n generalizing k with
  | zero => exact ⟨[], rfl⟩
  | succ n ih =>
    obtain ⟨v, hv⟩ := Option.isSome_iff_exists.mp (h 0 (by omega))
    obtain ⟨vs, hvs⟩ := ih (k := k + 1) fun j hj => by
      have := h (j + 1) (by omega)
      rwa [show k + (j + 1) = k + 1 + j by omega] at this
    have hv' : memRead m (slotAt base size k) = .ok v := by
      refine memRead_eq_ok.mpr ⟨?_, by simpa using hv⟩
      have := slotAt_lt base k hs
      omega
    exact ⟨v :: vs, by simp [readFrom, hv', hvs]⟩

/-- Two read loops whose addresses hold the same bytes answer the same. -/
theorem readFrom_congr {m m' : Memory} {base base' size size' n k k' : Nat}
    (h : ∀ j, j < n → memRead m (slotAt base size (k + j)) = memRead m' (slotAt base' size' (k' + j))) :
    readFrom m base size k n = readFrom m' base' size' k' n := by
  induction n generalizing k k' with
  | zero => rfl
  | succ n ih =>
    have h0 := h 0 (by omega)
    simp only [Nat.add_zero] at h0
    have := ih (k := k + 1) (k' := k' + 1) fun j hj => by
      have := h (j + 1) (by omega)
      rwa [show k + (j + 1) = k + 1 + j by omega, show k' + (j + 1) = k' + 1 + j by omega] at this
    simp [readFrom, h0, this]

/-- A read loop is one loop after another. -/
theorem readFrom_append {m : Memory} {base size k n l : Nat} {vs ws : List Byte}
    (h : readFrom m base size k n = .ok vs) (h' : readFrom m base size (k + n) l = .ok ws) :
    readFrom m base size k (n + l) = .ok (vs ++ ws) := by
  induction n generalizing k vs with
  | zero =>
    obtain rfl : [] = vs := by simpa [readFrom] using h
    simpa using h'
  | succ n ih =>
    unfold readFrom at h
    split at h
    · cases h
    · rename_i v hv
      split at h
      · cases h
      · rename_i vs' hvs
        obtain rfl : v :: vs' = vs := by simpa using h
        have := ih hvs (by rwa [show k + 1 + n = k + (n + 1) by omega])
        rw [show n + 1 + l = n + l + 1 by omega]
        simp [readFrom, hv, this]

/-- The first bytes of a read loop that completes, and the rest. -/
theorem readFrom_split {m : Memory} {base size k n l : Nat} {vs : List Byte}
    (h : readFrom m base size k (n + l) = .ok vs) :
    readFrom m base size k n = .ok (vs.take n) ∧ readFrom m base size (k + n) l = .ok (vs.drop n) := by
  induction n generalizing k vs with
  | zero => simpa [readFrom] using h
  | succ n ih =>
    rw [show n + 1 + l = n + l + 1 by omega] at h
    unfold readFrom at h
    split at h
    · cases h
    · rename_i v hv
      split at h
      · cases h
      · rename_i vs' hvs
        obtain rfl : v :: vs' = vs := by simpa using h
        obtain ⟨h1, h2⟩ := ih hvs
        rw [show k + (n + 1) = k + 1 + n by omega]
        exact ⟨by simp [readFrom, hv, h1], by simpa using h2⟩

end Sys2Proof.Machine
end

