-- ==== Sys2Proof/Laws/State.lean ====
section
/-! SUPPORT. What each named update of State does to each field, and which of them leave the derived values alone. -/

namespace Sys2Proof.Machine

variable (s : State)

/-! ### raise -/

@[simp] theorem State.raise_cfg (S : Status) : (s.raise S).cfg = s.cfg := rfl
@[simp] theorem State.raise_cap (S : Status) : (s.raise S).cap = s.cap := rfl
@[simp] theorem State.raise_head (S : Status) : (s.raise S).head = s.head := rfl
@[simp] theorem State.raise_tail (S : Status) : (s.raise S).tail = s.tail := rfl
@[simp] theorem State.raise_status (S : Status) : (s.raise S).status = S.code := rfl
@[simp] theorem State.raise_rdata (S : Status) : (s.raise S).rdata = [] := rfl
@[simp] theorem State.raise_stor (S : Status) : (s.raise S).stor = s.stor := rfl
@[simp] theorem State.raise_gie (S : Status) : (s.raise S).gie = s.gie := rfl
@[simp] theorem State.raise_allocInput (S : Status) : (s.raise S).allocInput = s.allocInput := rfl
@[simp] theorem State.raise_allocDrawn (S : Status) : (s.raise S).allocDrawn = s.allocDrawn := rfl
@[simp] theorem State.raise_wdata (S : Status) : (s.raise S).wdata = s.wdata := rfl
@[simp] theorem State.raise_agents (S : Status) : (s.raise S).agents = s.agents := rfl
@[simp] theorem State.raise_schedule (S : Status) : (s.raise S).schedule = s.schedule := rfl
@[simp] theorem State.raise_responses (S : Status) : (s.raise S).responses = s.responses := rfl
@[simp] theorem State.raise_size (S : Status) : (s.raise S).size = s.size := rfl
@[simp] theorem State.raise_used (S : Status) : (s.raise S).used = s.used := rfl
@[simp] theorem State.raise_free (S : Status) : (s.raise S).free = s.free := rfl
@[simp] theorem State.raise_empty (S : Status) : (s.raise S).empty = s.empty := rfl
@[simp] theorem State.raise_full (S : Status) : (s.raise S).full = s.full := rfl
@[simp] theorem State.raise_queue (S : Status) : (s.raise S).queue = s.queue := rfl

/-! ### finish -/

@[simp] theorem State.finish_cfg (d : List Byte) : (s.finish d).cfg = s.cfg := rfl
@[simp] theorem State.finish_cap (d : List Byte) : (s.finish d).cap = s.cap := rfl
@[simp] theorem State.finish_head (d : List Byte) : (s.finish d).head = s.head := rfl
@[simp] theorem State.finish_tail (d : List Byte) : (s.finish d).tail = s.tail := rfl
@[simp] theorem State.finish_status (d : List Byte) : (s.finish d).status = Status.ok.code := rfl
@[simp] theorem State.finish_rdata (d : List Byte) : (s.finish d).rdata = d := rfl
@[simp] theorem State.finish_stor (d : List Byte) : (s.finish d).stor = s.stor := rfl
@[simp] theorem State.finish_gie (d : List Byte) : (s.finish d).gie = s.gie := rfl
@[simp] theorem State.finish_allocInput (d : List Byte) : (s.finish d).allocInput = s.allocInput := rfl
@[simp] theorem State.finish_allocDrawn (d : List Byte) : (s.finish d).allocDrawn = s.allocDrawn := rfl
@[simp] theorem State.finish_wdata (d : List Byte) : (s.finish d).wdata = s.wdata := rfl
@[simp] theorem State.finish_agents (d : List Byte) : (s.finish d).agents = s.agents := rfl
@[simp] theorem State.finish_schedule (d : List Byte) : (s.finish d).schedule = s.schedule := rfl
@[simp] theorem State.finish_responses (d : List Byte) : (s.finish d).responses = s.responses := rfl
@[simp] theorem State.finish_size (d : List Byte) : (s.finish d).size = s.size := rfl
@[simp] theorem State.finish_used (d : List Byte) : (s.finish d).used = s.used := rfl
@[simp] theorem State.finish_free (d : List Byte) : (s.finish d).free = s.free := rfl
@[simp] theorem State.finish_empty (d : List Byte) : (s.finish d).empty = s.empty := rfl
@[simp] theorem State.finish_full (d : List Byte) : (s.finish d).full = s.full := rfl
@[simp] theorem State.finish_queue (d : List Byte) : (s.finish d).queue = s.queue := rfl

/-! ### commitCreate -/

@[simp] theorem State.commitCreate_cfg (c : Index) : (s.commitCreate c).cfg = true := rfl
@[simp] theorem State.commitCreate_cap (c : Index) : (s.commitCreate c).cap = c := rfl
@[simp] theorem State.commitCreate_head (c : Index) : (s.commitCreate c).head = 0#10 := rfl
@[simp] theorem State.commitCreate_tail (c : Index) : (s.commitCreate c).tail = 0#10 := rfl
@[simp] theorem State.commitCreate_status (c : Index) : (s.commitCreate c).status = s.status := rfl
@[simp] theorem State.commitCreate_rdata (c : Index) : (s.commitCreate c).rdata = s.rdata := rfl
@[simp] theorem State.commitCreate_stor (c : Index) : (s.commitCreate c).stor = s.stor := rfl
@[simp] theorem State.commitCreate_gie (c : Index) : (s.commitCreate c).gie = s.gie := rfl
@[simp] theorem State.commitCreate_allocInput (c : Index) : (s.commitCreate c).allocInput = s.allocInput := rfl
@[simp] theorem State.commitCreate_allocDrawn (c : Index) : (s.commitCreate c).allocDrawn = s.allocDrawn := rfl
@[simp] theorem State.commitCreate_wdata (c : Index) : (s.commitCreate c).wdata = s.wdata := rfl
@[simp] theorem State.commitCreate_agents (c : Index) : (s.commitCreate c).agents = s.agents := rfl
@[simp] theorem State.commitCreate_schedule (c : Index) : (s.commitCreate c).schedule = s.schedule := rfl
@[simp] theorem State.commitCreate_responses (c : Index) : (s.commitCreate c).responses = s.responses := rfl

/-! ### commitWrite -/

@[simp] theorem State.commitWrite_cfg (m : Memory) (h : Index) : (s.commitWrite m h).cfg = s.cfg := rfl
@[simp] theorem State.commitWrite_cap (m : Memory) (h : Index) : (s.commitWrite m h).cap = s.cap := rfl
@[simp] theorem State.commitWrite_head (m : Memory) (h : Index) : (s.commitWrite m h).head = h := rfl
@[simp] theorem State.commitWrite_tail (m : Memory) (h : Index) : (s.commitWrite m h).tail = s.tail := rfl
@[simp] theorem State.commitWrite_status (m : Memory) (h : Index) : (s.commitWrite m h).status = s.status := rfl
@[simp] theorem State.commitWrite_rdata (m : Memory) (h : Index) : (s.commitWrite m h).rdata = s.rdata := rfl
@[simp] theorem State.commitWrite_stor (m : Memory) (h : Index) : (s.commitWrite m h).stor = m := rfl
@[simp] theorem State.commitWrite_gie (m : Memory) (h : Index) : (s.commitWrite m h).gie = s.gie := rfl
@[simp] theorem State.commitWrite_allocInput (m : Memory) (h : Index) : (s.commitWrite m h).allocInput = s.allocInput := rfl
@[simp] theorem State.commitWrite_allocDrawn (m : Memory) (h : Index) : (s.commitWrite m h).allocDrawn = s.allocDrawn := rfl
@[simp] theorem State.commitWrite_wdata (m : Memory) (h : Index) : (s.commitWrite m h).wdata = s.wdata := rfl
@[simp] theorem State.commitWrite_agents (m : Memory) (h : Index) : (s.commitWrite m h).agents = s.agents := rfl
@[simp] theorem State.commitWrite_schedule (m : Memory) (h : Index) : (s.commitWrite m h).schedule = s.schedule := rfl
@[simp] theorem State.commitWrite_responses (m : Memory) (h : Index) : (s.commitWrite m h).responses = s.responses := rfl
@[simp] theorem State.commitWrite_size (m : Memory) (h : Index) : (s.commitWrite m h).size = s.size := rfl

/-! ### commitTail -/

@[simp] theorem State.commitTail_cfg (t : Index) : (s.commitTail t).cfg = s.cfg := rfl
@[simp] theorem State.commitTail_cap (t : Index) : (s.commitTail t).cap = s.cap := rfl
@[simp] theorem State.commitTail_head (t : Index) : (s.commitTail t).head = s.head := rfl
@[simp] theorem State.commitTail_tail (t : Index) : (s.commitTail t).tail = t := rfl
@[simp] theorem State.commitTail_status (t : Index) : (s.commitTail t).status = s.status := rfl
@[simp] theorem State.commitTail_rdata (t : Index) : (s.commitTail t).rdata = s.rdata := rfl
@[simp] theorem State.commitTail_stor (t : Index) : (s.commitTail t).stor = s.stor := rfl
@[simp] theorem State.commitTail_gie (t : Index) : (s.commitTail t).gie = s.gie := rfl
@[simp] theorem State.commitTail_allocInput (t : Index) : (s.commitTail t).allocInput = s.allocInput := rfl
@[simp] theorem State.commitTail_allocDrawn (t : Index) : (s.commitTail t).allocDrawn = s.allocDrawn := rfl
@[simp] theorem State.commitTail_wdata (t : Index) : (s.commitTail t).wdata = s.wdata := rfl
@[simp] theorem State.commitTail_agents (t : Index) : (s.commitTail t).agents = s.agents := rfl
@[simp] theorem State.commitTail_schedule (t : Index) : (s.commitTail t).schedule = s.schedule := rfl
@[simp] theorem State.commitTail_responses (t : Index) : (s.commitTail t).responses = s.responses := rfl
@[simp] theorem State.commitTail_size (t : Index) : (s.commitTail t).size = s.size := rfl

/-! ### putGie -/

@[simp] theorem State.putGie_cfg (v : Bool) : (s.putGie v).cfg = s.cfg := rfl
@[simp] theorem State.putGie_cap (v : Bool) : (s.putGie v).cap = s.cap := rfl
@[simp] theorem State.putGie_head (v : Bool) : (s.putGie v).head = s.head := rfl
@[simp] theorem State.putGie_tail (v : Bool) : (s.putGie v).tail = s.tail := rfl
@[simp] theorem State.putGie_status (v : Bool) : (s.putGie v).status = s.status := rfl
@[simp] theorem State.putGie_rdata (v : Bool) : (s.putGie v).rdata = s.rdata := rfl
@[simp] theorem State.putGie_stor (v : Bool) : (s.putGie v).stor = s.stor := rfl
@[simp] theorem State.putGie_gie (v : Bool) : (s.putGie v).gie = v := rfl
@[simp] theorem State.putGie_allocInput (v : Bool) : (s.putGie v).allocInput = s.allocInput := rfl
@[simp] theorem State.putGie_allocDrawn (v : Bool) : (s.putGie v).allocDrawn = s.allocDrawn := rfl
@[simp] theorem State.putGie_wdata (v : Bool) : (s.putGie v).wdata = s.wdata := rfl
@[simp] theorem State.putGie_agents (v : Bool) : (s.putGie v).agents = s.agents := rfl
@[simp] theorem State.putGie_schedule (v : Bool) : (s.putGie v).schedule = s.schedule := rfl
@[simp] theorem State.putGie_responses (v : Bool) : (s.putGie v).responses = s.responses := rfl
@[simp] theorem State.putGie_size (v : Bool) : (s.putGie v).size = s.size := rfl
@[simp] theorem State.putGie_used (v : Bool) : (s.putGie v).used = s.used := rfl
@[simp] theorem State.putGie_free (v : Bool) : (s.putGie v).free = s.free := rfl
@[simp] theorem State.putGie_empty (v : Bool) : (s.putGie v).empty = s.empty := rfl
@[simp] theorem State.putGie_full (v : Bool) : (s.putGie v).full = s.full := rfl
@[simp] theorem State.putGie_queue (v : Bool) : (s.putGie v).queue = s.queue := rfl

/-! ### afterDraw -/

@[simp] theorem State.afterDraw_cfg : (s.afterDraw).cfg = s.cfg := rfl
@[simp] theorem State.afterDraw_cap : (s.afterDraw).cap = s.cap := rfl
@[simp] theorem State.afterDraw_head : (s.afterDraw).head = s.head := rfl
@[simp] theorem State.afterDraw_tail : (s.afterDraw).tail = s.tail := rfl
@[simp] theorem State.afterDraw_status : (s.afterDraw).status = s.status := rfl
@[simp] theorem State.afterDraw_rdata : (s.afterDraw).rdata = s.rdata := rfl
@[simp] theorem State.afterDraw_stor : (s.afterDraw).stor = s.stor := rfl
@[simp] theorem State.afterDraw_gie : (s.afterDraw).gie = s.gie := rfl
@[simp] theorem State.afterDraw_allocInput : (s.afterDraw).allocInput = s.allocInput.tail := rfl
@[simp] theorem State.afterDraw_allocDrawn : (s.afterDraw).allocDrawn = s.allocDrawn + 1 := rfl
@[simp] theorem State.afterDraw_wdata : (s.afterDraw).wdata = s.wdata := rfl
@[simp] theorem State.afterDraw_agents : (s.afterDraw).agents = s.agents := rfl
@[simp] theorem State.afterDraw_schedule : (s.afterDraw).schedule = s.schedule := rfl
@[simp] theorem State.afterDraw_responses : (s.afterDraw).responses = s.responses := rfl
@[simp] theorem State.afterDraw_size : (s.afterDraw).size = s.size := rfl
@[simp] theorem State.afterDraw_used : (s.afterDraw).used = s.used := rfl
@[simp] theorem State.afterDraw_free : (s.afterDraw).free = s.free := rfl
@[simp] theorem State.afterDraw_empty : (s.afterDraw).empty = s.empty := rfl
@[simp] theorem State.afterDraw_full : (s.afterDraw).full = s.full := rfl
@[simp] theorem State.afterDraw_queue : (s.afterDraw).queue = s.queue := rfl

/-! ### blockReset -/

@[simp] theorem State.blockReset_cfg : (s.blockReset).cfg = false := rfl
@[simp] theorem State.blockReset_cap : (s.blockReset).cap = 0#10 := rfl
@[simp] theorem State.blockReset_head : (s.blockReset).head = 0#10 := rfl
@[simp] theorem State.blockReset_tail : (s.blockReset).tail = 0#10 := rfl
@[simp] theorem State.blockReset_status : (s.blockReset).status = 0#3 := rfl
@[simp] theorem State.blockReset_rdata : (s.blockReset).rdata = [] := rfl
@[simp] theorem State.blockReset_stor : (s.blockReset).stor = [] := rfl
@[simp] theorem State.blockReset_gie : (s.blockReset).gie = s.gie := rfl
@[simp] theorem State.blockReset_allocInput : (s.blockReset).allocInput = s.allocInput := rfl
@[simp] theorem State.blockReset_allocDrawn : (s.blockReset).allocDrawn = s.allocDrawn := rfl
@[simp] theorem State.blockReset_wdata : (s.blockReset).wdata = s.wdata := rfl
@[simp] theorem State.blockReset_agents : (s.blockReset).agents = s.agents := rfl
@[simp] theorem State.blockReset_schedule : (s.blockReset).schedule = s.schedule := rfl
@[simp] theorem State.blockReset_responses : (s.blockReset).responses = s.responses := rfl

/-! ### dropEvent -/

@[simp] theorem State.dropEvent_cfg (es : List Event) : (s.dropEvent es).cfg = s.cfg := rfl
@[simp] theorem State.dropEvent_cap (es : List Event) : (s.dropEvent es).cap = s.cap := rfl
@[simp] theorem State.dropEvent_head (es : List Event) : (s.dropEvent es).head = s.head := rfl
@[simp] theorem State.dropEvent_tail (es : List Event) : (s.dropEvent es).tail = s.tail := rfl
@[simp] theorem State.dropEvent_status (es : List Event) : (s.dropEvent es).status = s.status := rfl
@[simp] theorem State.dropEvent_rdata (es : List Event) : (s.dropEvent es).rdata = s.rdata := rfl
@[simp] theorem State.dropEvent_stor (es : List Event) : (s.dropEvent es).stor = s.stor := rfl
@[simp] theorem State.dropEvent_gie (es : List Event) : (s.dropEvent es).gie = s.gie := rfl
@[simp] theorem State.dropEvent_allocInput (es : List Event) : (s.dropEvent es).allocInput = s.allocInput := rfl
@[simp] theorem State.dropEvent_allocDrawn (es : List Event) : (s.dropEvent es).allocDrawn = s.allocDrawn := rfl
@[simp] theorem State.dropEvent_wdata (es : List Event) : (s.dropEvent es).wdata = s.wdata := rfl
@[simp] theorem State.dropEvent_agents (es : List Event) : (s.dropEvent es).agents = s.agents := rfl
@[simp] theorem State.dropEvent_schedule (es : List Event) : (s.dropEvent es).schedule = es := rfl
@[simp] theorem State.dropEvent_responses (es : List Event) : (s.dropEvent es).responses = s.responses := rfl
@[simp] theorem State.dropEvent_size (es : List Event) : (s.dropEvent es).size = s.size := rfl
@[simp] theorem State.dropEvent_used (es : List Event) : (s.dropEvent es).used = s.used := rfl
@[simp] theorem State.dropEvent_free (es : List Event) : (s.dropEvent es).free = s.free := rfl
@[simp] theorem State.dropEvent_empty (es : List Event) : (s.dropEvent es).empty = s.empty := rfl
@[simp] theorem State.dropEvent_full (es : List Event) : (s.dropEvent es).full = s.full := rfl
@[simp] theorem State.dropEvent_queue (es : List Event) : (s.dropEvent es).queue = s.queue := rfl

/-! ### putWdata -/

@[simp] theorem State.putWdata_cfg (d : List Byte) : (s.putWdata d).cfg = s.cfg := rfl
@[simp] theorem State.putWdata_cap (d : List Byte) : (s.putWdata d).cap = s.cap := rfl
@[simp] theorem State.putWdata_head (d : List Byte) : (s.putWdata d).head = s.head := rfl
@[simp] theorem State.putWdata_tail (d : List Byte) : (s.putWdata d).tail = s.tail := rfl
@[simp] theorem State.putWdata_status (d : List Byte) : (s.putWdata d).status = s.status := rfl
@[simp] theorem State.putWdata_rdata (d : List Byte) : (s.putWdata d).rdata = s.rdata := rfl
@[simp] theorem State.putWdata_stor (d : List Byte) : (s.putWdata d).stor = s.stor := rfl
@[simp] theorem State.putWdata_gie (d : List Byte) : (s.putWdata d).gie = s.gie := rfl
@[simp] theorem State.putWdata_allocInput (d : List Byte) : (s.putWdata d).allocInput = s.allocInput := rfl
@[simp] theorem State.putWdata_allocDrawn (d : List Byte) : (s.putWdata d).allocDrawn = s.allocDrawn := rfl
@[simp] theorem State.putWdata_wdata (d : List Byte) : (s.putWdata d).wdata = d := rfl
@[simp] theorem State.putWdata_agents (d : List Byte) : (s.putWdata d).agents = s.agents := rfl
@[simp] theorem State.putWdata_schedule (d : List Byte) : (s.putWdata d).schedule = s.schedule := rfl
@[simp] theorem State.putWdata_responses (d : List Byte) : (s.putWdata d).responses = s.responses := rfl
@[simp] theorem State.putWdata_size (d : List Byte) : (s.putWdata d).size = s.size := rfl
@[simp] theorem State.putWdata_used (d : List Byte) : (s.putWdata d).used = s.used := rfl
@[simp] theorem State.putWdata_free (d : List Byte) : (s.putWdata d).free = s.free := rfl
@[simp] theorem State.putWdata_empty (d : List Byte) : (s.putWdata d).empty = s.empty := rfl
@[simp] theorem State.putWdata_full (d : List Byte) : (s.putWdata d).full = s.full := rfl
@[simp] theorem State.putWdata_queue (d : List Byte) : (s.putWdata d).queue = s.queue := rfl

/-! ### present -/

@[simp] theorem State.present_cfg (a : Nat) (t : Transaction) : (s.present a t).cfg = s.cfg := rfl
@[simp] theorem State.present_cap (a : Nat) (t : Transaction) : (s.present a t).cap = s.cap := rfl
@[simp] theorem State.present_head (a : Nat) (t : Transaction) : (s.present a t).head = s.head := rfl
@[simp] theorem State.present_tail (a : Nat) (t : Transaction) : (s.present a t).tail = s.tail := rfl
@[simp] theorem State.present_status (a : Nat) (t : Transaction) : (s.present a t).status = s.status := rfl
@[simp] theorem State.present_rdata (a : Nat) (t : Transaction) : (s.present a t).rdata = s.rdata := rfl
@[simp] theorem State.present_stor (a : Nat) (t : Transaction) : (s.present a t).stor = s.stor := rfl
@[simp] theorem State.present_gie (a : Nat) (t : Transaction) : (s.present a t).gie = s.gie := rfl
@[simp] theorem State.present_allocInput (a : Nat) (t : Transaction) : (s.present a t).allocInput = s.allocInput := rfl
@[simp] theorem State.present_allocDrawn (a : Nat) (t : Transaction) : (s.present a t).allocDrawn = s.allocDrawn := rfl
@[simp] theorem State.present_wdata (a : Nat) (t : Transaction) : (s.present a t).wdata = t.wdata := rfl
@[simp] theorem State.present_agents (a : Nat) (t : Transaction) : (s.present a t).agents = advanceAgent s.agents a := rfl
@[simp] theorem State.present_schedule (a : Nat) (t : Transaction) : (s.present a t).schedule = s.schedule := rfl
@[simp] theorem State.present_responses (a : Nat) (t : Transaction) : (s.present a t).responses = s.responses := rfl
@[simp] theorem State.present_size (a : Nat) (t : Transaction) : (s.present a t).size = s.size := rfl
@[simp] theorem State.present_used (a : Nat) (t : Transaction) : (s.present a t).used = s.used := rfl
@[simp] theorem State.present_free (a : Nat) (t : Transaction) : (s.present a t).free = s.free := rfl
@[simp] theorem State.present_empty (a : Nat) (t : Transaction) : (s.present a t).empty = s.empty := rfl
@[simp] theorem State.present_full (a : Nat) (t : Transaction) : (s.present a t).full = s.full := rfl
@[simp] theorem State.present_queue (a : Nat) (t : Transaction) : (s.present a t).queue = s.queue := rfl

/-! ### record -/

@[simp] theorem State.record_cfg (a : Nat) : (s.record a).cfg = s.cfg := rfl
@[simp] theorem State.record_cap (a : Nat) : (s.record a).cap = s.cap := rfl
@[simp] theorem State.record_head (a : Nat) : (s.record a).head = s.head := rfl
@[simp] theorem State.record_tail (a : Nat) : (s.record a).tail = s.tail := rfl
@[simp] theorem State.record_status (a : Nat) : (s.record a).status = s.status := rfl
@[simp] theorem State.record_rdata (a : Nat) : (s.record a).rdata = s.rdata := rfl
@[simp] theorem State.record_stor (a : Nat) : (s.record a).stor = s.stor := rfl
@[simp] theorem State.record_gie (a : Nat) : (s.record a).gie = s.gie := rfl
@[simp] theorem State.record_allocInput (a : Nat) : (s.record a).allocInput = s.allocInput := rfl
@[simp] theorem State.record_allocDrawn (a : Nat) : (s.record a).allocDrawn = s.allocDrawn := rfl
@[simp] theorem State.record_wdata (a : Nat) : (s.record a).wdata = [] := rfl
@[simp] theorem State.record_agents (a : Nat) : (s.record a).agents = s.agents := rfl
@[simp] theorem State.record_schedule (a : Nat) : (s.record a).schedule = s.schedule := rfl
@[simp] theorem State.record_responses (a : Nat) : (s.record a).responses = s.responses ++ [⟨a, ⟨s.status, s.rdata⟩⟩] := rfl
@[simp] theorem State.record_size (a : Nat) : (s.record a).size = s.size := rfl
@[simp] theorem State.record_used (a : Nat) : (s.record a).used = s.used := rfl
@[simp] theorem State.record_free (a : Nat) : (s.record a).free = s.free := rfl
@[simp] theorem State.record_empty (a : Nat) : (s.record a).empty = s.empty := rfl
@[simp] theorem State.record_full (a : Nat) : (s.record a).full = s.full := rfl
@[simp] theorem State.record_queue (a : Nat) : (s.record a).queue = s.queue := rfl

end Sys2Proof.Machine
end

