-- ==== Sys2Proof/Laws/Index.lean ====
section
/-! SUPPORT. The arithmetic of the indices modulo SIZE: USED is the one distance from TAIL to HEAD below SIZE, and what an advance
of HEAD or of TAIL does to it. -/

namespace Sys2Proof.Machine

theorem State.size_pos (s : State) : 0 < s.size := Nat.succ_pos _

theorem State.size_le (s : State) : s.size ≤ 1024 := by
  have := s.cap.isLt
  simp only [State.size]
  omega

theorem State.used_lt_size (s : State) : s.used < s.size := Nat.mod_lt _ s.size_pos

theorem State.used_add_free (s : State) : s.used + s.free = s.cap.toNat := by
  have := s.used_lt_size
  simp only [State.free, State.size] at *
  omega

theorem advance_toNat (s : State) (base : Index) (len : Nat) :
    (advance base len s.size).toNat = (base.toNat + len) % s.size := by
  have := Nat.mod_lt (base.toNat + len) s.size_pos
  have := s.size_le
  simp only [advance, BitVec.toNat_ofNat]
  exact Nat.mod_eq_of_lt (by omega)

theorem advance_lt (s : State) (base : Index) (len : Nat) : (advance base len s.size).toNat < s.size := by
  rw [advance_toNat]
  exact Nat.mod_lt _ s.size_pos

theorem capOf_toNat {c : Nat} (h : c ≤ Config.maxCap) : (capOf c).toNat = c := by
  simp only [capOf, BitVec.toNat_ofNat]
  exact Nat.mod_eq_of_lt (by simp only [Config.maxCap] at h; omega)

/-- HEAD is USED slots after TAIL. -/
theorem State.slotAt_used {s : State} (hh : s.head.toNat < s.size) (ht : s.tail.toNat < s.size) :
    slotAt s.tail.toNat s.size s.used = s.head.toNat := by
  simp only [slotAt, State.used, Nat.add_mod_mod]
  rw [show s.tail.toNat + (s.head.toNat + s.size - s.tail.toNat) = s.head.toNat + s.size by omega]
  simp [Nat.mod_eq_of_lt hh]

/-- USED is the one number below SIZE with that property. -/
theorem State.used_unique {s : State} {u : Nat} (hh : s.head.toNat < s.size) (ht : s.tail.toNat < s.size) (hu : u < s.size)
    (h : slotAt s.tail.toNat s.size u = s.head.toNat) : s.used = u :=
  slotAt_injective s.used_lt_size hu ((State.slotAt_used hh ht).trans h.symm)

/-- A write of `len` bytes that fits adds `len` to USED (R83). -/
theorem State.used_of_head {s t : State} {len : Nat} (hh : s.head.toNat < s.size) (ht : s.tail.toNat < s.size)
    (hlen : len ≤ s.free) (hcap : t.cap = s.cap) (htail : t.tail = s.tail) (hhead : t.head = advance s.head len s.size) :
    t.used = s.used + len := by
  have hsize : t.size = s.size := by simp [State.size, hcap]
  have hsum := s.used_add_free
  refine State.used_unique ?_ ?_ ?_ ?_
  · rw [hsize, hhead]
    exact advance_lt ..
  · rwa [hsize, htail]
  · rw [hsize]
    simp only [State.size]
    omega
  · rw [hsize, htail, hhead, advance_toNat, ← State.slotAt_used hh ht]
    simp [slotAt, Nat.add_assoc]

/-- A read of `len` held bytes takes `len` from USED (R90, R92). -/
theorem State.used_of_tail {s t : State} {len : Nat} (hh : s.head.toNat < s.size) (ht : s.tail.toNat < s.size)
    (hlen : len ≤ s.used) (hcap : t.cap = s.cap) (hhead : t.head = s.head) (htail : t.tail = advance s.tail len s.size) :
    t.used = s.used - len := by
  have hsize : t.size = s.size := by simp [State.size, hcap]
  have := s.used_lt_size
  refine State.used_unique ?_ ?_ ?_ ?_
  · rwa [hsize, hhead]
  · rw [hsize, htail]
    exact advance_lt ..
  · rw [hsize]
    omega
  · rw [hsize, htail, hhead, advance_toNat, ← State.slotAt_used hh ht]
    simp only [slotAt, Nat.mod_add_mod]
    congr 1
    omega

/-- The slots a write that fits goes to lie outside the live region (R61). -/
theorem State.slotAt_head {s : State} (hh : s.head.toNat < s.size) (ht : s.tail.toNat < s.size) (k : Nat) :
    slotAt s.head.toNat s.size k = slotAt s.tail.toNat s.size (s.used + k) := by
  rw [← State.slotAt_used hh ht, slotAt_slotAt]

/-- The live region after TAIL has advanced starts `len` bytes further on (R90, R92). -/
theorem slotAt_advance (s : State) (base : Index) (len k : Nat) :
    slotAt (advance base len s.size).toNat s.size k = slotAt base.toNat s.size (len + k) := by
  rw [advance_toNat]
  exact slotAt_slotAt ..

end Sys2Proof.Machine
end

