-- ==== Sys2Proof/Laws/Ops.lean ====
section
/-! SUPPORT. One lemma per shared operation of the commands, and the meaning of each command without its brackets: the GIE
bracket has no net effect (R110), so a command that passes the payload check answers what its body answers. -/

namespace Sys2Proof.Machine

/-- The outcome a body's answer stands for. -/
def outcomeOf : Except Fault State → Host.Outcome State Fault Refusal
  | .error f => .fault f
  | .ok t => .next t

@[simp] theorem outcomeOf_eq_next {r : Except Fault State} {t : State} : outcomeOf r = .next t ↔ r = .ok t := by
  cases r <;> simp [outcomeOf]

theorem withPayload_eq_next {len : Nat} {s t : State} {body : State → Host.Outcome State Fault Refusal} :
    withPayload len s body = .next t ↔ s.wdata.length = len ∧ body s = .next t := by
  unfold withPayload
  split <;> simp_all

theorem withPayload_eq_refused {len : Nat} {s : State} {body : State → Host.Outcome State Fault Refusal} {r : Refusal}
    (hb : ∀ r, body s ≠ .refused r) : withPayload len s body = .refused r ↔ s.wdata.length ≠ len ∧ r = .payloadMismatch := by
  unfold withPayload
  split <;> simp_all [eq_comm]

theorem critical_eq_next {s t : State} {body : State → Except Fault State} :
    critical s body = .next t ↔ ∃ u, body (s.putGie false) = .ok u ∧ t = if s.gie then u.putGie true else u := by
  unfold critical
  cases body (s.putGie false) <;> grind

theorem critical_ne_refused (s : State) (body : State → Except Fault State) (r : Refusal) : critical s body ≠ .refused r := by
  unfold critical
  split <;> simp

theorem State.putGie_putGie (s : State) (v w : Bool) : (s.putGie v).putGie w = s.putGie w := rfl

theorem State.putGie_eq_self {s : State} {v : Bool} (h : s.gie = v) : s.putGie v = s := by
  subst h
  rfl

/-- The bracket around a body that neither reads nor writes GIE. -/
theorem critical_transparent {s : State} {body : State → Except Fault State}
    (h : body (s.putGie false) = (body s).map (State.putGie · false)) (hg : ∀ t, body s = .ok t → t.gie = s.gie) :
    critical s body = outcomeOf (body s) := by
  unfold critical
  rw [h]
  cases hb : body s with
  | error f => rfl
  | ok t =>
    have hgie := hg t hb
    cases hs : s.gie
    · simp [Except.map, outcomeOf, State.putGie_eq_self (hgie.trans hs)]
    · simp [Except.map, outcomeOf, State.putGie_putGie, State.putGie_eq_self (hgie.trans hs)]

/-! ### The bodies read and write no GIE -/

@[simp] theorem State.putGie_handleValid (s : State) (v bv : Bool) : (s.putGie v).handleValid bv = s.handleValid bv := rfl
@[simp] theorem State.putGie_raise (s : State) (v : Bool) (S : Status) : (s.putGie v).raise S = (s.raise S).putGie v := rfl
@[simp] theorem State.putGie_finish (s : State) (v : Bool) (d : List Byte) : (s.putGie v).finish d = (s.finish d).putGie v := rfl
@[simp] theorem State.putGie_commitWrite (s : State) (v : Bool) (m : Memory) (h : Index) :
    (s.putGie v).commitWrite m h = (s.commitWrite m h).putGie v := rfl
@[simp] theorem State.putGie_commitTail (s : State) (v : Bool) (t : Index) : (s.putGie v).commitTail t = (s.commitTail t).putGie v := rfl

theorem wrbufBody_putGie (bv dv : Bool) (len : Nat) (s : State) (v : Bool) :
    wrbufBody bv dv len (s.putGie v) = (wrbufBody bv dv len s).map (State.putGie · v) := by
  unfold wrbufBody
  simp only [State.putGie_handleValid, State.putGie_raise, State.putGie_free, State.putGie_head, State.putGie_size,
    State.putGie_wdata, State.putGie_stor, State.putGie_commitWrite, State.putGie_finish,
    apply_ite (Except.map (State.putGie · v))]
  cases writeFrom s.head.toNat s.size 0 s.wdata s.stor <;> rfl

theorem wrbyteBody_putGie (bv : Bool) (b : Byte) (s : State) (v : Bool) :
    wrbyteBody bv b (s.putGie v) = (wrbyteBody bv b s).map (State.putGie · v) := by
  unfold wrbyteBody
  simp only [State.putGie_handleValid, State.putGie_raise, State.putGie_free, State.putGie_head, State.putGie_size,
    State.putGie_stor, State.putGie_commitWrite, State.putGie_finish,
    apply_ite (Except.map (State.putGie · v))]
  cases memWrite s.stor s.head.toNat b <;> rfl

theorem rdbufBody_putGie (bv dv : Bool) (len : Nat) (s : State) (v : Bool) :
    rdbufBody bv dv len (s.putGie v) = (rdbufBody bv dv len s).map (State.putGie · v) := by
  unfold rdbufBody
  simp only [State.putGie_handleValid, State.putGie_raise, State.putGie_used, State.putGie_tail, State.putGie_size,
    State.putGie_stor, State.putGie_commitTail, State.putGie_finish,
    apply_ite (Except.map (State.putGie · v))]
  cases readFrom s.stor s.tail.toNat s.size 0 len <;> rfl

theorem peekBody_putGie (bv dv : Bool) (len : Nat) (s : State) (v : Bool) :
    peekBody bv dv len (s.putGie v) = (peekBody bv dv len s).map (State.putGie · v) := by
  unfold peekBody
  simp only [State.putGie_handleValid, State.putGie_raise, State.putGie_used, State.putGie_tail, State.putGie_size,
    State.putGie_stor, State.putGie_finish,
    apply_ite (Except.map (State.putGie · v))]
  cases readFrom s.stor s.tail.toNat s.size 0 len <;> rfl

theorem consumeBody_putGie (bv : Bool) (len : Nat) (s : State) (v : Bool) :
    consumeBody bv len (s.putGie v) = (consumeBody bv len s).map (State.putGie · v) := by
  unfold consumeBody
  simp only [State.putGie_handleValid, State.putGie_raise, State.putGie_used, State.putGie_tail, State.putGie_size,
    State.putGie_commitTail, State.putGie_finish,
    apply_ite (Except.map (State.putGie · v))]
  rfl

/-! ### What each body can answer -/

theorem createBody_cases (c : Nat) (s : State) :
    (s.cfg = true ∧ createBody c s = s.raise .illegalCommand) ∨
    (s.cfg = false ∧ Config.maxCap < c ∧ createBody c s = s.raise .capacityExceeded) ∨
    (s.cfg = false ∧ c ≤ Config.maxCap ∧ s.nextDraw = false ∧ createBody c s = s.afterDraw.raise .allocationFailed) ∨
    (s.cfg = false ∧ c ≤ Config.maxCap ∧ s.nextDraw = true ∧ s.afterDraw.nextDraw = false ∧
      createBody c s = s.afterDraw.afterDraw.raise .allocationFailed) ∨
    (s.cfg = false ∧ c ≤ Config.maxCap ∧ s.nextDraw = true ∧ s.afterDraw.nextDraw = true ∧
      createBody c s = (s.afterDraw.afterDraw.commitCreate (capOf c)).finish []) := by
  unfold createBody
  repeat' split
  all_goals grind

theorem wrbufBody_cases {bv dv : Bool} {len : Nat} {s t : State} (h : wrbufBody bv dv len s = .ok t) :
    ((s.handleValid bv = false ∨ dv = false ∨ len = 0) ∧ t = s.raise .invalidArgument) ∨
    (s.handleValid bv = true ∧ dv = true ∧ len ≠ 0 ∧ s.free < len ∧ t = s.raise .insufficientSpace) ∨
    (s.handleValid bv = true ∧ dv = true ∧ len ≠ 0 ∧ len ≤ s.free ∧ ∃ m, writeFrom s.head.toNat s.size 0 s.wdata s.stor = .ok m ∧
      t = (s.commitWrite m (advance s.head len s.size)).finish []) := by
  unfold wrbufBody at h
  repeat' split at h
  all_goals grind

theorem wrbyteBody_cases {bv : Bool} {b : Byte} {s t : State} (h : wrbyteBody bv b s = .ok t) :
    (s.handleValid bv = false ∧ t = s.raise .invalidArgument) ∨
    (s.handleValid bv = true ∧ s.free = 0 ∧ t = s.raise .insufficientSpace) ∨
    (s.handleValid bv = true ∧ s.free ≠ 0 ∧ s.head.toNat ≤ Config.maxCap ∧
      t = (s.commitWrite (s.stor.put s.head.toNat b) (advance s.head 1 s.size)).finish []) := by
  unfold wrbyteBody at h
  repeat' split at h
  all_goals try grind
  all_goals
    rename_i m hm
    obtain ⟨hle, rfl⟩ := memWrite_eq_ok.mp hm
    grind

theorem rdbufBody_cases {bv dv : Bool} {len : Nat} {s t : State} (h : rdbufBody bv dv len s = .ok t) :
    ((s.handleValid bv = false ∨ dv = false ∨ len = 0) ∧ t = s.raise .invalidArgument) ∨
    (s.handleValid bv = true ∧ dv = true ∧ len ≠ 0 ∧ s.used < len ∧ t = s.raise .insufficientData) ∨
    (s.handleValid bv = true ∧ dv = true ∧ len ≠ 0 ∧ len ≤ s.used ∧ ∃ vs, readFrom s.stor s.tail.toNat s.size 0 len = .ok vs ∧
      t = (s.commitTail (advance s.tail len s.size)).finish vs) := by
  unfold rdbufBody at h
  repeat' split at h
  all_goals grind

theorem peekBody_cases {bv dv : Bool} {len : Nat} {s t : State} (h : peekBody bv dv len s = .ok t) :
    ((s.handleValid bv = false ∨ dv = false ∨ len = 0) ∧ t = s.raise .invalidArgument) ∨
    (s.handleValid bv = true ∧ dv = true ∧ len ≠ 0 ∧ s.used < len ∧ t = s.raise .insufficientData) ∨
    (s.handleValid bv = true ∧ dv = true ∧ len ≠ 0 ∧ len ≤ s.used ∧ ∃ vs, readFrom s.stor s.tail.toNat s.size 0 len = .ok vs ∧
      t = s.finish vs) := by
  unfold peekBody at h
  repeat' split at h
  all_goals grind

theorem consumeBody_cases {bv : Bool} {len : Nat} {s t : State} (h : consumeBody bv len s = .ok t) :
    ((s.handleValid bv = false ∨ len = 0) ∧ t = s.raise .invalidArgument) ∨
    (s.handleValid bv = true ∧ len ≠ 0 ∧ s.used < len ∧ t = s.raise .insufficientData) ∨
    (s.handleValid bv = true ∧ len ≠ 0 ∧ len ≤ s.used ∧ t = (s.commitTail (advance s.tail len s.size)).finish []) := by
  unfold consumeBody at h
  repeat' split at h
  all_goals grind

theorem consumeBody_total (bv : Bool) (len : Nat) (s : State) : ∃ t, consumeBody bv len s = .ok t := by
  unfold consumeBody
  repeat' split
  all_goals exact ⟨_, rfl⟩

/-! ### What each command can answer -/

theorem wrbufBody_gie {bv dv : Bool} {len : Nat} {s t : State} (h : wrbufBody bv dv len s = .ok t) : t.gie = s.gie := by
  rcases wrbufBody_cases h with ⟨-, rfl⟩ | ⟨-, -, -, -, rfl⟩ | ⟨-, -, -, -, m, -, rfl⟩ <;> rfl

theorem wrbyteBody_gie {bv : Bool} {b : Byte} {s t : State} (h : wrbyteBody bv b s = .ok t) : t.gie = s.gie := by
  rcases wrbyteBody_cases h with ⟨-, rfl⟩ | ⟨-, -, rfl⟩ | ⟨-, -, -, rfl⟩ <;> rfl

theorem rdbufBody_gie {bv dv : Bool} {len : Nat} {s t : State} (h : rdbufBody bv dv len s = .ok t) : t.gie = s.gie := by
  rcases rdbufBody_cases h with ⟨-, rfl⟩ | ⟨-, -, -, -, rfl⟩ | ⟨-, -, -, -, m, -, rfl⟩ <;> rfl

theorem peekBody_gie {bv dv : Bool} {len : Nat} {s t : State} (h : peekBody bv dv len s = .ok t) : t.gie = s.gie := by
  rcases peekBody_cases h with ⟨-, rfl⟩ | ⟨-, -, -, -, rfl⟩ | ⟨-, -, -, -, m, -, rfl⟩ <;> rfl

theorem consumeBody_gie {bv : Bool} {len : Nat} {s t : State} (h : consumeBody bv len s = .ok t) : t.gie = s.gie := by
  rcases consumeBody_cases h with ⟨-, rfl⟩ | ⟨-, -, -, rfl⟩ | ⟨-, -, -, rfl⟩ <;> rfl

theorem execCreate_eq (c : Nat) (s : State) (hp : s.wdata = []) : execCreate c s = .next (createBody c s) := by
  simp [execCreate, withPayload, hp]

theorem execWrbuf_eq (bv dv : Bool) (len : Nat) (s : State) (hp : s.wdata.length = (Instr.wrbuf bv dv len).payloadLen) :
    execWrbuf bv dv len s = outcomeOf (wrbufBody bv dv len s) := by
  rw [execWrbuf, withPayload, if_pos hp]
  exact critical_transparent (wrbufBody_putGie ..) fun _ => wrbufBody_gie

theorem execWrbyte_eq (bv : Bool) (b : Byte) (s : State) (hp : s.wdata = []) :
    execWrbyte bv b s = outcomeOf (wrbyteBody bv b s) := by
  rw [execWrbyte, withPayload, if_pos (by simp [hp])]
  exact critical_transparent (wrbyteBody_putGie ..) fun _ => wrbyteBody_gie

theorem execRdbuf_eq (bv dv : Bool) (len : Nat) (s : State) (hp : s.wdata = []) :
    execRdbuf bv dv len s = outcomeOf (rdbufBody bv dv len s) := by
  rw [execRdbuf, withPayload, if_pos (by simp [hp])]
  exact critical_transparent (rdbufBody_putGie ..) fun _ => rdbufBody_gie

theorem execPeek_eq (bv dv : Bool) (len : Nat) (s : State) (hp : s.wdata = []) :
    execPeek bv dv len s = outcomeOf (peekBody bv dv len s) := by
  rw [execPeek, withPayload, if_pos (by simp [hp])]
  exact critical_transparent (peekBody_putGie ..) fun _ => peekBody_gie

theorem execConsume_eq (bv : Bool) (len : Nat) (s : State) (hp : s.wdata = []) :
    execConsume bv len s = outcomeOf (consumeBody bv len s) := by
  rw [execConsume, withPayload, if_pos (by simp [hp])]
  exact critical_transparent (consumeBody_putGie ..) fun _ => consumeBody_gie

/-- The answer of a command's body, whichever the command. -/
def bodyOf : Instr → State → Except Fault State
  | .create c, s => .ok (createBody c s)
  | .wrbuf bv dv n, s => wrbufBody bv dv n s
  | .wrbyte bv b, s => wrbyteBody bv b s
  | .rdbuf bv dv n, s => rdbufBody bv dv n s
  | .peek bv dv n, s => peekBody bv dv n s
  | .consume bv n, s => consumeBody bv n s

/-- Everything a command can answer: its body's answer when the payload has the right length, a refusal when it has not. -/
theorem exec_eq (i : Instr) (s : State) :
    exec i s = if s.wdata.length = i.payloadLen then outcomeOf (bodyOf i s) else .refused .payloadMismatch := by
  split
  · rename_i hp
    cases i with
    | create c => exact execCreate_eq c s (by simpa [Instr.payloadLen] using hp)
    | wrbuf bv dv n => exact execWrbuf_eq bv dv n s hp
    | wrbyte bv b => exact execWrbyte_eq bv b s (by simpa [Instr.payloadLen] using hp)
    | rdbuf bv dv n => exact execRdbuf_eq bv dv n s (by simpa [Instr.payloadLen] using hp)
    | peek bv dv n => exact execPeek_eq bv dv n s (by simpa [Instr.payloadLen] using hp)
    | consume bv n => exact execConsume_eq bv n s (by simpa [Instr.payloadLen] using hp)
  · rename_i hp
    cases i <;> exact if_neg hp

end Sys2Proof.Machine
end

