-- ==== Sys2Proof/Laws/Step.lean ====
section
/-! SUPPORT. One lemma per function between a command and a run: everything `exec`, `runWord`, `step` and `Host.Core.run` can
answer when they answer a next state. -/

namespace Sys2Proof.Machine

/-! ### Commands -/

/-- A command that completes had its payload, and its body answered the state it left. -/
theorem exec_next {i : Instr} {s t : State} (h : exec i s = .next t) : s.wdata.length = i.payloadLen ∧ bodyOf i s = .ok t := by
  rw [exec_eq] at h
  split at h
  · exact ⟨by assumption, by simpa using h⟩
  · cases h

theorem exec_next_of_body {i : Instr} {s t : State} (hp : s.wdata.length = i.payloadLen) (hb : bodyOf i s = .ok t) :
    exec i s = .next t := by
  rw [exec_eq, if_pos hp, hb]
  rfl

/-- A command is refused for its payload's length alone (R70). -/
theorem exec_refused {i : Instr} {s : State} {r : Refusal} :
    exec i s = .refused r ↔ s.wdata.length ≠ i.payloadLen ∧ r = .payloadMismatch := by
  rw [exec_eq]
  split
  · cases bodyOf i s <;> simp_all [outcomeOf]
  · simp_all [eq_comm]

/-- The six commands leave the platform, the port and the run alone. -/
theorem bodyOf_platform {i : Instr} {s t : State} (h : bodyOf i s = .ok t) :
    t.gie = s.gie ∧ t.wdata = s.wdata ∧ t.agents = s.agents ∧ t.schedule = s.schedule ∧ t.responses = s.responses := by
  cases i with
  | create c =>
    obtain rfl : createBody c s = t := by simpa [bodyOf] using h
    rcases createBody_cases c s with ⟨-, e⟩ | ⟨-, -, e⟩ | ⟨-, -, -, e⟩ | ⟨-, -, -, -, e⟩ | ⟨-, -, -, -, e⟩ <;> rw [e] <;> simp
  | wrbuf bv dv n => rcases wrbufBody_cases h with ⟨-, rfl⟩ | ⟨-, -, -, -, rfl⟩ | ⟨-, -, -, -, m, -, rfl⟩ <;> simp
  | wrbyte bv b => rcases wrbyteBody_cases h with ⟨-, rfl⟩ | ⟨-, -, rfl⟩ | ⟨-, -, -, rfl⟩ <;> simp
  | rdbuf bv dv n => rcases rdbufBody_cases h with ⟨-, rfl⟩ | ⟨-, -, -, -, rfl⟩ | ⟨-, -, -, -, m, -, rfl⟩ <;> simp
  | peek bv dv n => rcases peekBody_cases h with ⟨-, rfl⟩ | ⟨-, -, -, -, rfl⟩ | ⟨-, -, -, -, m, -, rfl⟩ <;> simp
  | consume bv n => rcases consumeBody_cases h with ⟨-, rfl⟩ | ⟨-, -, -, rfl⟩ | ⟨-, -, -, rfl⟩ <;> simp

/-- The storage write of WRBYTE is the write loop on one byte (R88). -/
theorem writeFrom_one {s : State} (b : Byte) (hh : s.head.toNat < s.size) (hc : s.head.toNat ≤ Config.maxCap) :
    writeFrom s.head.toNat s.size 0 [b] s.stor = .ok (s.stor.put s.head.toNat b) := by
  simp [writeFrom, slotAt, Nat.mod_eq_of_lt hh, memWrite, hc]

theorem State.handleValid_iff {s : State} {bv : Bool} : s.handleValid bv = true ↔ bv = true ∧ s.cfg = true := by
  simp [State.handleValid]

/-! ### Words -/

theorem illegalCommand_next {s t : State} (h : illegalCommand s = .next t) : s.wdata = [] ∧ t = s.raise .illegalCommand := by
  obtain ⟨h1, h2⟩ := withPayload_eq_next.mp h
  exact ⟨by simpa using h1, by simpa [eq_comm] using h2⟩

/-- A word that completes is a command that completes, or an illegal word without payload (R69). -/
theorem runWord_next {w : Word} {s t : State} (h : runWord w s = .next t) :
    (∃ i, decode w = .ok i ∧ exec i s = .next t) ∨
    (∃ e, decode w = .error e ∧ s.wdata = [] ∧ t = s.raise .illegalCommand) := by
  unfold runWord at h
  split at h
  · exact .inl ⟨_, by assumption, h⟩
  · exact .inr ⟨_, by assumption, illegalCommand_next h⟩

/-! ### Steps -/

/-- Everything a step that answers a next state can have done. -/
theorem step_next {s t : State} (h : step s = .next t) :
    (s.schedule = [] ∧ t = s) ∨
    (∃ es, s.schedule = .reset :: es ∧ t = (s.dropEvent es).blockReset) ∨
    (∃ v es, s.schedule = .setGie v :: es ∧ t = (s.dropEvent es).putGie v) ∨
    (∃ a es, s.schedule = .issue a :: es ∧ s.fetch a = none ∧ t = s.dropEvent es) ∨
    (∃ a es x u, s.schedule = .issue a :: es ∧ s.fetch a = some x ∧
      runWord x.cmd ((s.dropEvent es).present a x) = .next u ∧ t = u.record a) := by
  unfold step at h
  split at h
  · exact .inl ⟨by assumption, by simpa [eq_comm] using h⟩
  · exact .inr (.inl ⟨_, by assumption, by simpa [eq_comm] using h⟩)
  · exact .inr (.inr (.inl ⟨_, _, by assumption, by simpa [eq_comm] using h⟩))
  · split at h
    · exact .inr (.inr (.inr (.inl ⟨_, _, by assumption, by assumption, by simpa [eq_comm] using h⟩)))
    · unfold completion at h
      split at h
      · exact .inr (.inr (.inr (.inr ⟨_, _, _, _, by assumption, by assumption, by assumption, by simpa [eq_comm] using h⟩)))
      · cases h
      · cases h

/-- The transaction an agent issues is the next of its list (R37, R126). -/
theorem State.fetch_eq_some {s : State} {a : Nat} {x : Transaction} (h : s.fetch a = some x) :
    ∃ g, s.agents[a]? = some g ∧ g.program[g.next]? = some x := by
  unfold State.fetch at h
  split at h
  · exact ⟨_, by assumption, h⟩
  · cases h

/-- The next step of `withFetchWord` runs the word, as the one command of the agent it adds (log entry 9). -/
theorem step_withFetchWord (s : State) (nbits w : Nat) :
    step (s.withFetchWord nbits w) =
      let x := tableTransaction (BitVec.ofNat 32 (w % 2 ^ nbits))
      completion s.agents.length
        (runWord x.cmd ((s.withFetchWord nbits w).dropEvent s.schedule |>.present s.agents.length x)) := by
  simp [step, State.withFetchWord, State.withNext, State.fetch, State.dropEvent, State.present]

/-! ### Runs -/

theorem run_succ_of_next {k : Nat} {s t : State} (h : step s = .next t) :
    Host.Core.run core (k + 1) s = Host.Core.run core k t := by
  have hc : core.step s = .next t := h
  simp only [Host.Core.run, hc]

theorem run_succ_next {k : Nat} {s t : State} (h : Host.Core.run core (k + 1) s = .next t) :
    ∃ u, step s = .next u ∧ Host.Core.run core k u = .next t := by
  cases hs : step s with
  | next u => exact ⟨u, rfl, (run_succ_of_next hs).symm.trans h⟩
  | fault f =>
    have hc : core.step s = .fault f := hs
    simp [Host.Core.run, hc] at h
  | refused r =>
    have hc : core.step s = .refused r := hs
    simp [Host.Core.run, hc] at h

end Sys2Proof.Machine
end

