-- ==== Sys2Proof/Laws/Invariant.lean ====
section
/-! SUPPORT. What each update of the state does to the invariant and to the queue of bytes held. -/

namespace Sys2Proof.Machine

/-! ### The invariant -/

/-- Code 6 is never produced (R71). -/
theorem Status.code_ne_six (S : Status) : S.code ≠ 6#3 := by cases S <;> decide

/-- The invariant is about the block alone. -/
theorem State.Inv.of_block {s t : State} (h : s.Inv) (h1 : t.cfg = s.cfg) (h2 : t.cap = s.cap) (h3 : t.head = s.head)
    (h4 : t.tail = s.tail) (h5 : t.status = s.status) (h6 : t.rdata = s.rdata) (h7 : t.stor = s.stor) : t.Inv := by
  have hsz : t.size = s.size := by simp [State.size, h2]
  have hu : t.used = s.used := by simp [State.used, hsz, h3, h4]
  refine ⟨?_, ?_, ?_, ?_, ?_, ?_, ?_, ?_, ?_⟩
  · rw [h2]; exact h.capLegal
  · rw [h3, hsz]; exact h.headLegal
  · rw [h4, hsz]; exact h.tailLegal
  · rw [h5]; exact h.statusLegal
  · rw [h5, h6]; exact h.rdataOfOk
  · rw [h7]; exact h.storWf
  · rw [h7, hsz]; exact h.storBounded
  · rw [h7, hsz, hu, h4]; exact h.liveWritten
  · rw [h1, h2, h3, h4, h7]; exact h.unconfigured

theorem State.Inv.raise {s : State} (h : s.Inv) (S : Status) : (s.raise S).Inv :=
  ⟨h.capLegal, h.headLegal, h.tailLegal, S.code_ne_six, by simp, h.storWf, h.storBounded, h.liveWritten, h.unconfigured⟩

theorem State.Inv.finish {s : State} (h : s.Inv) (d : List Byte) : (s.finish d).Inv :=
  ⟨h.capLegal, h.headLegal, h.tailLegal, Status.ok.code_ne_six, by simp [Status.code], h.storWf, h.storBounded,
    h.liveWritten, h.unconfigured⟩

theorem State.size_le_of_cap {s : State} (h : s.cap.toNat ≤ Config.maxCap) : s.size ≤ Config.maxCap + 1 := by
  simp only [State.size]
  omega

/-- A write that fits (R83, R86). -/
theorem State.Inv.commitWrite {s : State} (h : s.Inv) (hc : s.cfg = true) {w : List Byte} {m : Memory} (hf : w.length ≤ s.free)
    (hw : writeFrom s.head.toNat s.size 0 w s.stor = .ok m) : (s.commitWrite m (advance s.head w.length s.size)).Inv := by
  have hsum := s.used_add_free
  have hsz : s.size = s.cap.toNat + 1 := rfl
  obtain ⟨hwf, hmem, hin, hout⟩ := writeFrom_spec s.size_pos (by omega) hw
  have hu : (s.commitWrite m (advance s.head w.length s.size)).used = s.used + w.length :=
    State.used_of_head h.headLegal h.tailLegal hf rfl rfl rfl
  refine ⟨h.capLegal, ?_, h.tailLegal, h.statusLegal, h.rdataOfOk, hwf h.storWf, ?_, ?_, ?_⟩
  · exact advance_lt ..
  · intro c hc
    rcases hmem c hc with h' | h'
    · exact h.storBounded c h'
    · exact h'
  · intro i hi
    rw [hu] at hi
    simp only [State.commitWrite_stor, State.commitWrite_tail, State.commitWrite_size]
    by_cases hi' : i < s.used
    · rw [hout]
      · exact h.liveWritten i hi'
      · intro j hj heq
        rw [State.slotAt_head h.headLegal h.tailLegal] at heq
        have := slotAt_injective (by omega) (by omega) heq
        omega
    · have := hin (i - s.used) (by omega)
      rw [State.slotAt_head h.headLegal h.tailLegal, show s.used + (0 + (i - s.used)) = i by omega] at this
      rw [this]
      simp
      omega
  · simp [hc]

/-- A read of bytes that are held (R90, R92). -/
theorem State.Inv.commitTail {s : State} (h : s.Inv) (hc : s.cfg = true) {n : Nat} (hn : n ≤ s.used) :
    (s.commitTail (advance s.tail n s.size)).Inv := by
  have hu : (s.commitTail (advance s.tail n s.size)).used = s.used - n :=
    State.used_of_tail h.headLegal h.tailLegal hn rfl rfl rfl
  refine ⟨h.capLegal, h.headLegal, advance_lt .., h.statusLegal, h.rdataOfOk, h.storWf, h.storBounded, ?_, ?_⟩
  · intro i hi
    rw [hu] at hi
    simp only [State.commitTail_stor, State.commitTail_tail, State.commitTail_size]
    rw [slotAt_advance]
    exact h.liveWritten _ (by omega)
  · simp [hc]

/-- The registers of a fresh instance (R77). -/
theorem State.Inv.commitCreate {s : State} (h : s.Inv) (hc : s.cfg = false) {c : Nat} (hn : c ≤ Config.maxCap) :
    (s.commitCreate (capOf c)).Inv := by
  obtain ⟨-, -, -, hst⟩ := h.unconfigured hc
  have hu : (s.commitCreate (capOf c)).used = 0 := by simp [State.used]
  refine ⟨?_, ?_, ?_, h.statusLegal, h.rdataOfOk, h.storWf, ?_, ?_, ?_⟩
  · simp [capOf_toNat hn, hn]
  · simp [State.size]
  · simp [State.size]
  · simp [hst]
  · simp [hu]
  · simp

/-! ### The queue -/

/-- The live region can be read (R61). -/
theorem State.Inv.queue_ok {s : State} (h : s.Inv) : ∃ q, s.queue = .ok q ∧ q.length = s.used := by
  obtain ⟨vs, hvs⟩ := readFrom_completes (m := s.stor) (base := s.tail.toNat) (k := 0) s.size_pos (State.size_le_of_cap h.capLegal)
    (n := s.used) fun j hj => by rw [Nat.zero_add]; exact h.liveWritten j hj
  exact ⟨vs, hvs, (readFrom_spec hvs).1⟩

theorem State.queueBytes_eq {s : State} {q : List Byte} (h : s.queue = .ok q) : s.queueBytes = q := by
  simp [State.queueBytes, h]

/-- A write that fits puts its bytes at the end of Q (R83, R86). -/
theorem State.Inv.queueBytes_commitWrite {s : State} (h : s.Inv) (hc : s.cfg = true) {w : List Byte} {m : Memory} (hf : w.length ≤ s.free)
    (hw : writeFrom s.head.toNat s.size 0 w s.stor = .ok m) :
    (s.commitWrite m (advance s.head w.length s.size)).queueBytes = s.queueBytes ++ w := by
  have hi := h.commitWrite hc hf hw
  obtain ⟨q, hq, hl⟩ := h.queue_ok
  obtain ⟨q', hq', hl'⟩ := hi.queue_ok
  have hu : (s.commitWrite m (advance s.head w.length s.size)).used = s.used + w.length :=
    State.used_of_head h.headLegal h.tailLegal hf rfl rfl rfl
  have hsum := s.used_add_free
  have hsz : s.size = s.cap.toNat + 1 := rfl
  obtain ⟨-, -, hin, hout⟩ := writeFrom_spec s.size_pos (by omega) hw
  rw [State.queueBytes_eq hq, State.queueBytes_eq hq']
  apply List.ext_getElem?
  intro k
  have e1 := (readFrom_spec hq).2
  have e2 := (readFrom_spec hq').2
  simp only [Nat.zero_add, State.commitWrite_stor, State.commitWrite_tail, State.commitWrite_size] at e1 e2 hin hout
  by_cases hk : k < s.used
  · rw [List.getElem?_append_left (by omega), ← e1 k hk, ← e2 k (by omega)]
    refine hout _ fun j hj heq => ?_
    rw [State.slotAt_head h.headLegal h.tailLegal] at heq
    have := slotAt_injective (by omega) (by omega) heq
    omega
  · by_cases hk' : k < s.used + w.length
    · rw [List.getElem?_append_right (by omega), ← e2 k (by omega), hl, ← hin (k - s.used) (by omega),
        State.slotAt_head h.headLegal h.tailLegal]
      congr 2; omega
    · rw [List.getElem?_eq_none (by omega), List.getElem?_eq_none (by simp; omega)]

/-- The first `n` bytes of Q are what a read of `n` bytes returns, and the rest is Q after it (R90 to R92). -/
theorem State.Inv.queue_split {s : State} (h : s.Inv) {n : Nat} (hn : n ≤ s.used) {q : List Byte} (hq : s.queue = .ok q) :
    readFrom s.stor s.tail.toNat s.size 0 n = .ok (q.take n) ∧
    (s.commitTail (advance s.tail n s.size)).queue = .ok (q.drop n) := by
  have hu : (s.commitTail (advance s.tail n s.size)).used = s.used - n :=
    State.used_of_tail h.headLegal h.tailLegal hn rfl rfl rfl
  unfold State.queue at hq
  rw [show s.used = n + (s.used - n) by omega] at hq
  obtain ⟨h1, h2⟩ := readFrom_split hq
  refine ⟨h1, ?_⟩
  rw [← h2, State.queue, hu]
  apply readFrom_congr
  intro j _
  simp only [State.commitTail_stor, State.commitTail_tail, State.commitTail_size, slotAt_advance]
  congr 2; omega

end Sys2Proof.Machine
end

