-- ==== Sys2Proof/Laws/PerInstr.lean ====
section
/-! SUPPORT. The families of statements made once per command. -/

namespace Sys2Proof.Laws.EncodeSelects

/-- The word of the command is selected by its own row of R68 and by no other. -/
def Statement (i : Instr) : Prop := ∀ row : Opcode, selects row (encode i) = true ↔ row = i.opcode

theorem create (capreq : Nat) : Statement (.create capreq) := by
  intro row
  rw [encode, selects_packWord]
  cases row <;> simp [lowHalf, Opcode.number, Opcode.mask, Opcode.fixedBits, Instr.opcode]

theorem wrbuf (bv dv : Bool) (len : Nat) : Statement (.wrbuf bv dv len) := by
  intro row
  rw [encode, selects_packWord]
  cases row <;> cases bv <;> cases dv <;> simp [lowHalf, Opcode.number, Opcode.mask, Opcode.fixedBits, Instr.opcode]

theorem wrbyte (bv : Bool) (b : Byte) : Statement (.wrbyte bv b) := by
  intro row
  rw [encode, selects_packWord]
  have high : ((0#8 ++ b : BitVec 16) &&& (0xFF#8 ++ 0x00#8 : BitVec 16)) = 0#16 := by
    rw [BitVec.and_append]
    simp
  cases row <;> cases bv <;> simp [lowHalf, Opcode.number, Opcode.mask, Opcode.fixedBits, Instr.opcode]
  all_goals simpa using high

theorem rdbuf (bv dv : Bool) (len : Nat) : Statement (.rdbuf bv dv len) := by
  intro row
  rw [encode, selects_packWord]
  cases row <;> cases bv <;> cases dv <;> simp [lowHalf, Opcode.number, Opcode.mask, Opcode.fixedBits, Instr.opcode]

theorem peek (bv dv : Bool) (len : Nat) : Statement (.peek bv dv len) := by
  intro row
  rw [encode, selects_packWord]
  cases row <;> cases bv <;> cases dv <;> simp [lowHalf, Opcode.number, Opcode.mask, Opcode.fixedBits, Instr.opcode]

theorem consume (bv : Bool) (len : Nat) : Statement (.consume bv len) := by
  intro row
  rw [encode, selects_packWord]
  cases row <;> cases bv <;> simp [lowHalf, Opcode.number, Opcode.mask, Opcode.fixedBits, Instr.opcode]

end Sys2Proof.Laws.EncodeSelects
end

