-- ==== Sys2Proof/Laws/Widths.lean ====
section
/-! SUPPORT. The literal widths are the parameters of Config.lean (R8 to R10). -/

namespace Sys2Proof

theorem word_width : Word = BitVec Config.cmdW := rfl

theorem index_width : Index = BitVec Config.idxW := rfl

theorem statusCode_width : StatusCode = BitVec Config.stW := rfl

/-- IDX_W is the least width that holds MAX_CAP, and SIZE fits in it too (R8). -/
theorem idxW_least : Config.maxCap + 1 < 2 ^ Config.idxW ∧ 2 ^ (Config.idxW - 1) ≤ Config.maxCap := by decide

theorem operandFits_iff (n : Nat) : operandFits n = true ↔ n < 65536 := decide_eq_true_iff

end Sys2Proof
end

