-- ==== Sys2Proof/Tests/Slice0.lean ====
section
/-! SUPPORT. Tests: ill-formed syntax, decoded words, one or two single steps per command, and for every statement a state and
operands that meet its hypotheses. The expected results are the vectors of 95_test_vectors.md, which are derived from the rules by
hand; V-E, V-C, V-W, V-B, V-R, V-K, V-N, V-P, V-D, V-A, V-S are its tables, whose start states are written (CAP, HEAD, TAIL; Q). -/

namespace Sys2Proof.Tests

open Sys2Proof.Machine

/-! ### Helpers -/

/-- A configured instance. -/
def configured (cap head tail : Nat) (stor : Memory) : State :=
  { State.reset with cfg := true, cap := BitVec.ofNat 10 cap, head := BitVec.ofNat 10 head, tail := BitVec.ofNat 10 tail, stor := stor }

/-- (0, 0, 0; []). -/
def zero0 : State := configured 0 0 0 []

/-- (4, 0, 0; []). -/
def fresh4 : State := configured 4 0 0 []

/-- (4, 4, 0; [1,2,3,4]). -/
def full4 : State := configured 4 4 0 [(0, 1#8), (1, 2#8), (2, 3#8), (3, 4#8)]

/-- (4, 4, 2; [3,4]). -/
def half4 : State := configured 4 4 2 [(0, 1#8), (1, 2#8), (2, 3#8), (3, 4#8)]

/-- (4, 1, 2; [3,4,5,6]), STOR = [6,?,3,4,5]. -/
def wrapped4 : State := configured 4 1 2 [(0, 6#8), (2, 3#8), (3, 4#8), (4, 5#8)]

/-- (4, 4, 1; [2,3,4]). -/
def almost4 : State := configured 4 4 1 [(1, 2#8), (2, 3#8), (3, 4#8)]

/-- (4, 2, 2; []), drained. -/
def drained4 : State := configured 4 2 2 [(0, 9#8), (1, 9#8)]

/-- A state no run reaches: bytes 2 and 3 of the live region are unwritten. -/
def hole4 : State := configured 4 4 0 [(0, 1#8), (1, 2#8)]

/-- Reset, with these ALLOC draws lined up. -/
def drawing (draws : List Bool) : State := { State.reset with allocInput := draws }

/-- The status number, the bytes returned, (CAP, HEAD, TAIL) and Q after a command; none where it does not complete. -/
def ending : Host.Outcome State Fault Refusal → Option (Nat × List Byte × (Nat × Nat × Nat) × List Byte)
  | .next t => some (t.status.toNat, t.rdata, (t.cap.toNat, t.head.toNat, t.tail.toNat), t.queueBytes)
  | .fault _ => none
  | .refused _ => none

/-- The status number after a command. -/
def statusAfter (o : Host.Outcome State Fault Refusal) : Option Nat := (ending o).map Prod.fst

/-- The command completes. -/
def completes : Host.Outcome State Fault Refusal → Bool
  | .next _ => true
  | .fault _ => false
  | .refused _ => false

/-- Why the command was refused. -/
def refusal : Host.Outcome State Fault Refusal → Option Refusal
  | .next _ => none
  | .fault _ => none
  | .refused r => some r

/-- Why the command faulted. -/
def faulted : Host.Outcome State Fault Refusal → Option Fault
  | .next _ => none
  | .fault f => some f
  | .refused _ => none

/-- One field of the state after a command. -/
def fieldAfter {α : Type} (f : State → α) : Host.Outcome State Fault Refusal → Option α
  | .next t => some (f t)
  | .fault _ => none
  | .refused _ => none

theorem next_of_completes {o : Host.Outcome State Fault Refusal} (h : completes o = true) : ∃ t, o = .next t := by
  cases o with
  | next t => exact ⟨t, rfl⟩
  | fault f => cases h
  | refused r => cases h

/-- The command a word decodes to. -/
def decoded (w : Word) : Option Instr := (decode w).toOption

/-- Why a word is rejected. -/
def rejected (w : Word) : Option DecodeReject :=
  match decode w with
  | .ok _ => none
  | .error e => some e

/-! ### Ill-formed syntax is refused -/

theorem test_create_operand_too_wide : (Instr.create 65536).wellFormed = false ∧ (Instr.create 65535).wellFormed = true := by decide
theorem test_wrbuf_operand_too_wide : (Instr.wrbuf true true 65536).wellFormed = false ∧ (Instr.wrbuf true true 65535).wellFormed = true := by
  decide
theorem test_rdbuf_operand_too_wide : (Instr.rdbuf true true 65536).wellFormed = false ∧ (Instr.rdbuf true true 65535).wellFormed = true := by
  decide
theorem test_peek_operand_too_wide : (Instr.peek true true 65536).wellFormed = false ∧ (Instr.peek true true 65535).wellFormed = true := by
  decide
theorem test_consume_operand_too_wide : (Instr.consume true 65536).wellFormed = false ∧ (Instr.consume true 65535).wellFormed = true := by
  decide

/-- R70: a WRBUF with DV = 1 takes LEN bytes; DV = 0, every other command and an illegal word take none. -/
theorem test_transaction_payload :
    Transaction.wellFormed ⟨0x00020032#32, [1#8]⟩ = false ∧ Transaction.wellFormed ⟨0x00020032#32, [1#8, 2#8]⟩ = true ∧
    Transaction.wellFormed ⟨0x00020012#32, [1#8, 2#8]⟩ = false ∧ Transaction.wellFormed ⟨0x00020012#32, []⟩ = true ∧
    Transaction.wellFormed ⟨0x00010034#32, [1#8]⟩ = false ∧ Transaction.wellFormed ⟨0x00000007#32, [1#8]⟩ = false ∧
    Transaction.wellFormed ⟨0x00000007#32, []⟩ = true := by decide

/-! ### Decoding: the table V-E -/

/-- The words are written out field by field: IMM16, RSV, DV, BV, OP (R63). -/
theorem test_decode_create : decoded 0b0000000000000100_0000000000_0_0_0001#32 = some (.create 4) ∧
    decoded 0x02010001#32 = some (.create 513) ∧ decoded 0xFFFF0001#32 = some (.create 65535) := by decide
theorem test_decode_wrbuf : decoded 0b0000000000000100_0000000000_1_1_0010#32 = some (.wrbuf true true 4) ∧
    decoded 0x00040002#32 = some (.wrbuf false false 4) ∧ decoded 0x00020012#32 = some (.wrbuf true false 2) := by decide
theorem test_decode_wrbyte : decoded 0b0000000000000101_0000000000_0_1_0011#32 = some (.wrbyte true 5#8) ∧
    decoded 0x00FF0013#32 = some (.wrbyte true 0xFF#8) ∧ decoded 0x00010003#32 = some (.wrbyte false 1#8) := by decide
theorem test_decode_rdbuf : decoded 0b0000000000000010_0000000000_1_1_0100#32 = some (.rdbuf true true 2) ∧
    decoded 0x00010014#32 = some (.rdbuf true false 1) ∧ decoded 0x00010024#32 = some (.rdbuf false true 1) := by decide
theorem test_decode_peek : decoded 0b0000000000000010_0000000000_1_1_0101#32 = some (.peek true true 2) ∧
    decoded 0x00010015#32 = some (.peek true false 1) := by decide
theorem test_decode_consume : decoded 0b0000000000000010_0000000000_0_1_0110#32 = some (.consume true 2) ∧
    decoded 0x00010006#32 = some (.consume false 1) := by decide

theorem test_reject_op : rejected 0x00000000#32 = some .reservedOp ∧ rejected 0x00000007#32 = some .reservedOp ∧
    rejected 0x0000000F#32 = some .reservedOp := by decide
theorem test_reject_create_bits : rejected 0x00040011#32 = some .reservedBits ∧ rejected 0x00040021#32 = some .reservedBits ∧
    rejected 0x00040041#32 = some .reservedBits := by decide
theorem test_reject_other_bits : rejected 0x00008032#32 = some .reservedBits ∧ rejected 0x01050013#32 = some .reservedBits ∧
    rejected 0x00050033#32 = some .reservedBits ∧ rejected 0x00020036#32 = some .reservedBits := by decide

/-- R51: the bytes of 0x00040032 in increasing address order. -/
theorem test_bytes_little_endian : bytesOfWord 0x00040032#32 = [0x32#8, 0x00#8, 0x04#8, 0x00#8] := by decide
theorem test_bytes_decode : (decodeBytes [0x13#8, 0x00#8, 0xAB#8, 0x00#8, 0xEE#8]).toOption = some (.wrbyte true 0xAB#8, [0xEE#8]) := by
  decide
theorem test_bytes_truncated : (match decodeBytes [0x13#8, 0x00#8, 0xAB#8] with | .ok _ => none | .error e => some e) = some .truncated := by
  decide

theorem test_table_words : decodeTableWord 32 0x00000001 = some (.create 0) ∧ decodeTableWord 32 0x00040032 = some (.wrbuf true true 4) ∧
    decodeTableWord 32 0x00000003 = some (.wrbyte false 0#8) ∧ decodeTableWord 32 0x00000007 = none := by decide

/-- R74: the canonical words. -/
theorem test_encode : encode (.create 4) = 0x00040001#32 ∧ encode (.wrbuf true true 4) = 0x00040032#32 ∧
    encode (.wrbyte true 5#8) = 0x00050013#32 ∧ encode (.rdbuf true true 2) = 0x00020034#32 ∧
    encode (.peek true true 2) = 0x00020035#32 ∧ encode (.consume true 2) = 0x00020016#32 := by decide

/-! ### Derived values and addresses: V-D, V-A, V-S -/

/-- USED, FREE, EMPTY and FULL of rows of V-D. -/
theorem test_derived :
    [configured 0 0 0 [], configured 1 0 1 [], configured 4 1 2 [], configured 4 2 4 [], configured 512 0 512 [],
      configured 512 511 512 [], configured 512 200 100 []].map
      (fun s => (s.outputs.used, s.outputs.free, s.outputs.empty, s.outputs.full)) =
    [(0, 0, true, true), (1, 0, false, true), (4, 0, false, true), (3, 1, false, false), (1, 511, false, false),
      (512, 0, false, true), (100, 412, false, false)] := by decide

theorem test_advance :
    (advance 4#10 2 5, advance 3#10 2 5, advance 6#10 6 9, advance 512#10 1 513, advance 0#10 512 513, advance 512#10 512 513) =
    (1#10, 0#10, 3#10, 0#10, 512#10, 511#10) := by decide

theorem test_segments : segmentAddresses 4 2 5 = [4, 0] ∧ segmentAddresses 6 6 9 = [6, 7, 8, 0, 1, 2] ∧
    segmentAddresses 0 4 5 = [0, 1, 2, 3] ∧ segmentAddresses 3 2 5 = [3, 4] ∧ firstSegment 512 300 513 = 1 := by decide

/-! ### One or two single steps per command -/

/-- V-C: CREATE #512 from reset with draws T, T. -/
theorem test_create_ok : ending (transact ⟨0x02000001#32, []⟩ (drawing [true, true])) = some (0, [], (512, 0, 0), []) := by decide
/-- V-C: CREATE #8 on a configured instance. -/
theorem test_create_twice : ending (transact ⟨0x00080001#32, []⟩ half4) = some (7, [], (4, 4, 2), [3#8, 4#8]) := by decide

/-- V-W: WRBUF #2, {5,6} wraps to addresses 4, 0. -/
theorem test_wrbuf_wraps : ending (transact ⟨0x00020032#32, [5#8, 6#8]⟩ half4) = some (0, [], (4, 1, 2), [3#8, 4#8, 5#8, 6#8]) := by decide
/-- V-W: WRBUF #3 on FREE = 2. -/
theorem test_wrbuf_no_space : ending (transact ⟨0x00030032#32, [5#8, 6#8, 7#8]⟩ half4) = some (4, [], (4, 4, 2), [3#8, 4#8]) := by decide

/-- V-B: WRBYTE #9 at slot 4 wraps HEAD to 0 and fills the buffer. -/
theorem test_wrbyte_wraps : ending (transact ⟨0x00090013#32, []⟩ almost4) = some (0, [], (4, 0, 1), [2#8, 3#8, 4#8, 9#8]) := by decide
/-- V-B: WRBYTE #5 on a full buffer. -/
theorem test_wrbyte_full : ending (transact ⟨0x00050013#32, []⟩ full4) = some (4, [], (4, 4, 0), [1#8, 2#8, 3#8, 4#8]) := by decide

/-- V-R: RDBUF #4 across the wrap. -/
theorem test_rdbuf_wraps : ending (transact ⟨0x00040034#32, []⟩ wrapped4) = some (0, [3#8, 4#8, 5#8, 6#8], (4, 1, 1), []) := by decide
/-- V-R: RDBUF #3 on USED = 2. -/
theorem test_rdbuf_no_data : ending (transact ⟨0x00030034#32, []⟩ half4) = some (5, [], (4, 4, 2), [3#8, 4#8]) := by decide

/-- V-K: PEEK #3 leaves TAIL. -/
theorem test_peek : ending (transact ⟨0x00030035#32, []⟩ full4) = some (0, [1#8, 2#8, 3#8], (4, 4, 0), [1#8, 2#8, 3#8, 4#8]) := by decide
/-- V-K: PEEK.ND #1. -/
theorem test_peek_nd : ending (transact ⟨0x00010015#32, []⟩ full4) = some (1, [], (4, 4, 0), [1#8, 2#8, 3#8, 4#8]) := by decide

/-- V-N: CONSUME #4 across the wrap. -/
theorem test_consume_wraps : ending (transact ⟨0x00040016#32, []⟩ wrapped4) = some (0, [], (4, 1, 1), []) := by decide
/-- V-N: CONSUME #5 on USED = 4. -/
theorem test_consume_no_data : ending (transact ⟨0x00050016#32, []⟩ full4) = some (5, [], (4, 4, 0), [1#8, 2#8, 3#8, 4#8]) := by decide

/-- V-N: the word 0x00010036 is illegal. -/
theorem test_illegal_word : ending (transact ⟨0x00010036#32, []⟩ full4) = some (7, [], (4, 4, 0), [1#8, 2#8, 3#8, 4#8]) := by decide
/-- V-W: WRBUF #2 with WDATA = [1]. -/
theorem test_payload_mismatch : refusal (transact ⟨0x00020032#32, [1#8]⟩ fresh4) = some .payloadMismatch := by decide
/-- V-B and V-G: WRBYTE #7 with GIE = 0. -/
theorem test_gie_zero : fieldAfter State.gie (transact ⟨0x00070013#32, []⟩ (fresh4.putGie false)) = some false := by decide

/-- A step records the response of the command an agent issues and moves its index on. -/
theorem test_step_response : fieldAfter (fun t => (t.responses, t.agents.map Agent.next)) (step (full4.withNext ⟨0x00020034#32, []⟩)) =
    some ([⟨2, ⟨0#3, [1#8, 2#8]⟩⟩], [0, 0, 1]) := by decide
/-- The word placed by `withFetchWord` is the next command: a WRBUF on a block that is not configured. -/
theorem test_step_fetch_word : fieldAfter (fun t => (t.status, t.responses.length)) (step (State.reset.withFetchWord 32 0x00040032)) =
    some (1#3, 1) := by decide
/-- Resetting the block leaves GIE. -/
theorem test_step_reset : fieldAfter (fun t => (t.cfg, t.cap, t.stor, t.gie)) (step { full4.putGie false with schedule := [.reset] }) =
    some (false, 0#10, [], false) := by decide

/-! ### States that meet the invariant -/

theorem zero0_inv : zero0.Inv :=
  ⟨by decide, by decide, by decide, by decide, by decide, by decide, by decide, by decide, by decide⟩
theorem fresh4_inv : fresh4.Inv :=
  ⟨by decide, by decide, by decide, by decide, by decide, by decide, by decide, by decide, by decide⟩
theorem full4_inv : full4.Inv :=
  ⟨by decide, by decide, by decide, by decide, by decide, by decide, by decide, by decide, by decide⟩
theorem half4_inv : half4.Inv :=
  ⟨by decide, by decide, by decide, by decide, by decide, by decide, by decide, by decide, by decide⟩
theorem wrapped4_inv : wrapped4.Inv :=
  ⟨by decide, by decide, by decide, by decide, by decide, by decide, by decide, by decide, by decide⟩
theorem almost4_inv : almost4.Inv :=
  ⟨by decide, by decide, by decide, by decide, by decide, by decide, by decide, by decide, by decide⟩
theorem drained4_inv : drained4.Inv :=
  ⟨by decide, by decide, by decide, by decide, by decide, by decide, by decide, by decide, by decide⟩

/-! ### Witnesses: the hypotheses of the statements, met -/

theorem witness_ResetValues : State.reset = State.reset ∧ full4.cfg = true ∧ full4.blockReset ≠ full4 := by decide

theorem witness_ResetStepLeavesPlatform : ({ full4 with schedule := [.reset] } : State).schedule = .reset :: [] := by decide

theorem witness_StepRunsDecodedCommand :
    (half4.withNext ⟨0x00020032#32, [5#8, 6#8]⟩).schedule = .issue 2 :: [] ∧
    (half4.withNext ⟨0x00020032#32, [5#8, 6#8]⟩).fetch 2 = some ⟨0x00020032#32, [5#8, 6#8]⟩ ∧
    decode 0x00020032#32 = .ok (.wrbuf true true 2) := ⟨by decide, by decide, by rfl⟩

theorem witness_CompletedCommandResponds :
    (full4.withNext ⟨0x00020034#32, []⟩).schedule = .issue 2 :: [] ∧
    (full4.withNext ⟨0x00020034#32, []⟩).agents[2]? = some ⟨.consumer, [⟨0x00020034#32, []⟩], 0⟩ ∧
    completes (step (full4.withNext ⟨0x00020034#32, []⟩)) = true ∧
    fieldAfter State.rdata (step (full4.withNext ⟨0x00020034#32, []⟩)) = some [1#8, 2#8] := by decide

/-- Both sides: an ill-formed transaction of each shape, and a well-formed one. -/
theorem witness_IllFormedTransactionRefused :
    (fresh4.withNext ⟨0x00020032#32, [1#8]⟩).schedule = .issue 2 :: [] ∧
    (fresh4.withNext ⟨0x00020032#32, [1#8]⟩).fetch 2 = some ⟨0x00020032#32, [1#8]⟩ ∧
    refusal (step (fresh4.withNext ⟨0x00020032#32, [1#8]⟩)) = some .payloadMismatch ∧
    refusal (step (fresh4.withNext ⟨0x00000007#32, [1#8]⟩)) = some .payloadMismatch ∧
    completes (step (fresh4.withNext ⟨0x00020032#32, [1#8, 2#8]⟩)) = true := by decide

/-- A well-formed and an ill-formed transaction, with a legal and with an illegal word. -/
theorem witness_EveryCommandCompletes : fresh4.Inv ∧ Transaction.wellFormed ⟨0x00020032#32, [1#8, 2#8]⟩ = true ∧
    Transaction.wellFormed ⟨0x00000007#32, []⟩ = true ∧ Transaction.wellFormed ⟨0x00020032#32, [1#8]⟩ = false ∧
    Transaction.wellFormed ⟨0x00000007#32, [1#8]⟩ = false := ⟨fresh4_inv, by decide, by decide, by decide, by decide⟩

theorem witness_StepKeepsInvariant : half4.Inv ∧ ∃ t, step half4 = .next t := ⟨half4_inv, half4, rfl⟩

theorem witness_NoUnwrittenByteRead : wrapped4.Inv ∧ wrapped4.used = 4 := ⟨wrapped4_inv, by decide⟩

/-- An interleaving that still names an agent whose list has been issued. -/
theorem witness_EndedRunIsObserved :
    ({ full4 with schedule := [.issue 1] } : State).runEnded = true ∧
    (({ full4 with schedule := [.issue 1] } : State).schedule.head? ≠ some .reset) ∧
    (∀ v, ({ full4 with schedule := [.issue 1] } : State).schedule.head? ≠ some (.setGie v)) ∧
    completes (step { full4 with schedule := [.issue 1] }) = true := by decide

/-- Both branches of USED: TAIL at most HEAD, and TAIL above HEAD. -/
theorem witness_UsedAndFree : full4.head.toNat < full4.size ∧ full4.tail.toNat < full4.size ∧ full4.tail.toNat ≤ full4.head.toNat ∧
    wrapped4.head.toNat < wrapped4.size ∧ wrapped4.tail.toNat < wrapped4.size ∧ wrapped4.head.toNat < wrapped4.tail.toNat := by decide

theorem witness_EmptyAndFull : fresh4.head.toNat < fresh4.size ∧ fresh4.tail.toNat < fresh4.size ∧ fresh4.empty = true ∧
    full4.full = true ∧ half4.empty = false ∧ half4.full = false ∧ zero0.cap = 0#10 ∧ zero0.empty = true ∧ zero0.full = true := by decide

theorem witness_FlagsDependOnIndicesAlone : full4.cap = hole4.cap ∧ full4.head = hole4.head ∧ full4.tail = hole4.tail ∧ full4 ≠ hole4 := by
  decide

theorem witness_OutputsAgree : wrapped4.head.toNat < wrapped4.size ∧ wrapped4.tail.toNat < wrapped4.size ∧
    wrapped4.outputs = ⟨true, 4#10, 1#10, 2#10, 0#3, 4, 0, false, true⟩ := by decide

theorem witness_TwoSegmentSplit : 4 < 5 ∧ 2 ≤ 5 ∧ segmentAddresses 4 2 5 = [4, 0] ∧ segmentAddresses 0 5 5 = [0, 1, 2, 3, 4] := by decide

/-- Each command, with a sum below SIZE (4), equal to SIZE (5) and above it (6). -/
theorem witness_IndexAdvanceSubtractsOnce : half4.head.toNat < half4.size ∧ half4.tail.toNat < half4.size ∧
    fieldAfter (fun t => (t.status, t.head)) (exec (.wrbuf true true 2) (half4.putWdata [5#8, 6#8])) = some (0#3, 1#10) ∧
    fieldAfter (fun t => (t.status, t.head)) (exec (.wrbyte true 5#8) half4) = some (0#3, 0#10) ∧
    fieldAfter (fun t => (t.status, t.tail)) (exec (.rdbuf true true 2) half4) = some (0#3, 4#10) ∧
    fieldAfter (fun t => (t.status, t.tail)) (exec (.consume true 3) wrapped4) = some (0#3, 0#10) ∧
    fieldAfter (fun t => (t.status, t.tail)) (exec (.consume true 4) wrapped4) = some (0#3, 1#10) := by decide

/-- Every command, with its operand at the top of its range. -/
theorem witness_DecodeOfEncode : (Instr.create 65535).wellFormed = true ∧ (Instr.wrbuf false true 65535).wellFormed = true ∧
    (Instr.wrbyte true 0xFF#8).wellFormed = true ∧ (Instr.rdbuf true false 65535).wellFormed = true ∧
    (Instr.peek true true 65535).wellFormed = true ∧ (Instr.consume true 65535).wellFormed = true := by decide

theorem witness_EncodeOfDecode : decode 0xFFFF0035#32 = .ok (.peek true true 65535) := by rfl

theorem witness_OperandsFromTheirFields : decode 0xFFFF0001#32 = .ok (.create 65535) ∧ decode 0xFFFF0032#32 = .ok (.wrbuf true true 65535) ∧
    decode 0x00FF0013#32 = .ok (.wrbyte true 0xFF#8) ∧ decode 0x00010014#32 = .ok (.rdbuf true false 1) ∧
    decode 0x00010025#32 = .ok (.peek false true 1) ∧ decode 0x00010016#32 = .ok (.consume true 1) :=
  ⟨by rfl, by rfl, by rfl, by rfl, by rfl, by rfl⟩

/-- OP 0, OP 7, OP 15, and an assigned OP with a reserved bit. -/
theorem witness_IllegalWordCompletes : (0#32).toNat % 16 = 0 ∧ 7 ≤ (0x00000007#32).toNat % 16 ∧ 7 ≤ (0x0000000F#32).toNat % 16 ∧
    Opcode.create.number.toNat = (0x00040011#32).toNat % 16 ∧ 0x00040011#32 &&& Opcode.create.mask ≠ Opcode.create.fixedBits ∧
    full4.wdata = [] := by decide

theorem witness_CreateSucceeds : (drawing [true, true]).wdata = [] ∧ (drawing [true, true]).cfg = false ∧ 512 ≤ 512 ∧
    (drawing [true, true]).nextDraw = true ∧ (drawing [true, true]).afterDraw.nextDraw = true := by decide

theorem witness_CreateCapacityExceeded : State.reset.wdata = [] ∧ State.reset.cfg = false ∧ 512 < 513 := by decide

/-- Both clauses: the storage draw false, and the control block's draw false. -/
theorem witness_CreateAllocationFailed : (drawing [false]).wdata = [] ∧ (drawing [false]).cfg = false ∧ (drawing [false]).nextDraw = false ∧
    (drawing [true, false]).nextDraw = true ∧ (drawing [true, false]).afterDraw.nextDraw = false := by decide

theorem witness_ConfigurationIsWriteOnce : full4.cfg = true ∧ full4.wdata = [] ∧
    (full4.withNext ⟨0x00080001#32, []⟩).cfg = true ∧ (full4.withNext ⟨0x00080001#32, []⟩).schedule.head? ≠ some .reset ∧
    completes (step (full4.withNext ⟨0x00080001#32, []⟩)) = true := by decide

theorem witness_CapacityZero : (drawing [true, true]).nextDraw = true ∧ (drawing [true, true]).afterDraw.nextDraw = true ∧ zero0.Inv ∧
    zero0.cfg = true ∧ zero0.cap = 0#10 ∧ (zero0.putWdata [1#8]).wdata.length = 1 ∧ zero0.wdata = [] :=
  ⟨by decide, by decide, zero0_inv, by decide, by decide, by decide, by decide⟩

/-- A success and a failure. -/
theorem witness_CreateFrame : completes (exec (.create 4) (drawing [true, true])) = true ∧ statusAfter (exec (.create 4) (drawing [true, false])) = some 3 := by
  decide

/-- LEN = FREE = 2. -/
theorem witness_WrbufAppends : (half4.putWdata [5#8, 6#8]).cfg = true ∧ (half4.putWdata [5#8, 6#8]).cap.toNat ≤ 512 ∧
    (half4.putWdata [5#8, 6#8]).wdata.length = 2 ∧ 2 ≤ (half4.putWdata [5#8, 6#8]).free ∧ Memory.wf (half4.putWdata [5#8, 6#8]).stor := by decide

/-- FREE = 1. -/
theorem witness_WrbyteAppends : almost4.cfg = true ∧ almost4.cap.toNat ≤ 512 ∧ almost4.head.toNat < almost4.size ∧ almost4.wdata = [] ∧
    almost4.free = 1 := by decide

theorem witness_WriteFlags : half4.Inv ∧ almost4.Inv ∧
    (half4.putWdata [5#8, 6#8]).wdata.length = (Instr.wrbuf true true 2).payloadLen ∧
    statusAfter (exec (.wrbuf true true 2) (half4.putWdata [5#8, 6#8])) = some 0 ∧
    almost4.wdata.length = (Instr.wrbyte true 9#8).payloadLen ∧ statusAfter (exec (.wrbyte true 9#8) almost4) = some 0 :=
  ⟨half4_inv, almost4_inv, by decide, by decide, by decide, by decide⟩

theorem witness_ExactFit : fresh4.Inv ∧ fresh4.cfg = true ∧ (fresh4.putWdata [1#8, 2#8, 3#8, 4#8]).wdata.length = 4 ∧
    4 = (fresh4.putWdata [1#8, 2#8, 3#8, 4#8]).free := ⟨fresh4_inv, by decide, by decide, by decide⟩

theorem witness_WrbyteIsWrbufOfOneByte : drained4.Inv ∧ full4.Inv ∧ State.reset.cfg = false := ⟨drained4_inv, full4_inv, rfl⟩

/-- A success and a failure of each write. -/
theorem witness_WriteFrame : half4.head.toNat < half4.size ∧
    statusAfter (exec (.wrbuf true true 2) (half4.putWdata [5#8, 6#8])) = some 0 ∧
    statusAfter (exec (.wrbuf true true 3) (half4.putWdata [5#8, 6#8, 7#8])) = some 4 ∧
    statusAfter (exec (.wrbyte true 5#8) half4) = some 0 ∧ statusAfter (exec (.wrbyte false 5#8) half4) = some 1 := by decide

/-- LEN = USED = 4. -/
theorem witness_ReadsReturnOldest : wrapped4.cfg = true ∧ wrapped4.cap.toNat ≤ 512 ∧ wrapped4.wdata = [] ∧ 4 ≤ wrapped4.used ∧
    ∀ k, k < 4 → (Memory.lookup wrapped4.stor ((wrapped4.tail.toNat + k) % wrapped4.size)).isSome := by decide

theorem witness_ConsumeDiscards : wrapped4.cfg = true ∧ wrapped4.wdata = [] ∧ wrapped4.head.toNat < wrapped4.size ∧
    wrapped4.tail.toNat < wrapped4.size ∧ 4 ≤ wrapped4.used := by decide

theorem witness_ReadFrame : statusAfter (exec (.rdbuf true true 2) half4) = some 0 ∧ statusAfter (exec (.rdbuf true true 3) half4) = some 5 ∧
    statusAfter (exec (.peek true true 2) half4) = some 0 ∧ statusAfter (exec (.consume true 2) half4) = some 0 := by decide

theorem witness_PeekThenConsumeIsRead : full4.Inv ∧ full4.wdata = [] ∧ full4.cfg = true ∧ 1 ≤ full4.used ∧
    statusAfter (exec (.rdbuf true true 4) full4) = some 0 ∧ statusAfter (exec (.rdbuf true true 5) full4) = some 5 :=
  ⟨full4_inv, by decide, by decide, by decide, by decide, by decide⟩

theorem witness_PeekIsRepeatable : completes (exec (.peek true true 3) full4) = true ∧ completes (exec (.peek true true 5) full4) = true := by
  decide

/-- The unreachable state whose byte 2 is unwritten, at k = 2, and a CREATE. -/
theorem witness_UnwrittenBytesHaveNoValue : hole4.cfg = true ∧ hole4.cap.toNat ≤ 512 ∧ hole4.wdata = [] ∧ 4 ≤ hole4.used ∧
    (∀ j, j < 2 → (Memory.lookup hole4.stor ((hole4.tail.toNat + j) % hole4.size)).isSome) ∧
    Memory.lookup hole4.stor ((hole4.tail.toNat + 2) % hole4.size) = none ∧
    faulted (exec (.rdbuf true true 4) hole4) = some (.unwrittenRead 2) ∧
    statusAfter (exec (.create 4) (drawing [true, true])) = some 0 ∧ full4.blockReset ≠ full4 := by decide

/-- Each cause of InvalidArgument alone (V-W, V-B, V-R, V-K, V-N), and its absence. -/
theorem witness_InvalidArgumentCauses :
    [exec (.wrbuf false true 2) (fresh4.putWdata [1#8, 2#8]), exec (.wrbuf true true 1) (State.reset.putWdata [1#8]),
      exec (.wrbuf true false 2) fresh4, exec (.wrbuf true true 0) fresh4, exec (.wrbyte false 1#8) fresh4,
      exec (.wrbyte true 1#8) State.reset, exec (.rdbuf false true 1) full4, exec (.rdbuf true false 1) full4,
      exec (.rdbuf true true 0) full4, exec (.peek false true 1) full4, exec (.peek true false 1) full4, exec (.peek true true 0) full4,
      exec (.consume false 1) full4, exec (.consume true 1) State.reset, exec (.consume true 0) full4].map statusAfter =
      List.replicate 15 (some 1) ∧
    statusAfter (exec (.consume true 1) full4) = some 0 ∧ statusAfter (exec (.create 4) full4) = some 7 := by decide

theorem witness_InvalidHandleFails :
    (fresh4.putWdata [1#8, 2#8]).wdata.length = (Instr.wrbuf false true 2).payloadLen ∧ ¬ (false = true ∧ fresh4.cfg = true) ∧
    State.reset.wdata.length = (Instr.consume true 1).payloadLen ∧ ¬ (true = true ∧ State.reset.cfg = true) ∧
    decoded 0x00040001#32 = some (.create 4) := by decide

theorem witness_CreateStatusCauses : statusAfter (exec (.create 513) State.reset) = some 2 ∧ statusAfter (exec (.create 512) (drawing [false])) = some 3 ∧
    statusAfter (exec (.create 512) (drawing [true, false])) = some 3 ∧ statusAfter (exec (.create 512) (drawing [true, true])) = some 0 := by decide

/-- LEN one above FREE or USED, and LEN equal to it. -/
theorem witness_InsufficientCauses :
    statusAfter (exec (.wrbuf true true 3) (half4.putWdata [5#8, 6#8, 7#8])) = some 4 ∧
    statusAfter (exec (.wrbuf true true 2) (half4.putWdata [5#8, 6#8])) = some 0 ∧ statusAfter (exec (.wrbyte true 5#8) full4) = some 4 ∧
    statusAfter (exec (.rdbuf true true 3) half4) = some 5 ∧ statusAfter (exec (.peek true true 3) half4) = some 5 ∧
    statusAfter (exec (.consume true 3) half4) = some 5 ∧ statusAfter (exec (.consume true 2) half4) = some 0 := by decide

theorem witness_IllegalCommandCauses : statusAfter (runWord 0x00000007#32 full4) = some 7 ∧ statusAfter (runWord 0x00080001#32 full4) = some 7 ∧
    statusAfter (runWord 0x02010001#32 State.reset) = some 2 := by decide

/-- V-P: the first cause wins where two or more apply. -/
theorem witness_StatusPriority : statusAfter (runWord 0x00000036#32 State.reset) = some 7 ∧ statusAfter (runWord 0x00000032#32 State.reset) = some 1 ∧
    statusAfter (runWord 0x00090012#32 full4) = some 1 ∧ statusAfter (runWord 0x270F0001#32 full4) = some 7 ∧
    statusAfter (runWord 0x02580001#32 (drawing [false, false])) = some 2 := by decide

theorem witness_FailureChangesStatusAlone : statusAfter (runWord 0x00030034#32 half4) = some 5 ∧
    fieldAfter State.rdata (runWord 0x00020034#32 half4) = some [3#8, 4#8] ∧ statusAfter (runWord 0x00040001#32 (drawing [false])) = some 3 := by
  decide

/-- Each register changes under one of its writers. -/
theorem witness_WritersOfRegisters : fieldAfter State.head (exec (.wrbyte true 9#8) almost4) = some 0#10 ∧
    fieldAfter State.tail (exec (.consume true 1) half4) = some 3#10 ∧ completes (exec (.peek true true 1) half4) = true ∧
    fieldAfter State.cap (exec (.create 4) (drawing [true, true])) = some 4#10 := by decide

theorem witness_GieRestored : completes (runWord 0x00090013#32 (almost4.putGie false)) = true ∧
    completes (runWord 0x00000007#32 almost4) = true ∧ completes (runWord 0x00080001#32 almost4) = true := by decide

theorem witness_GieDoesNotMatter : half4.gie = true ∧ completes (exec (.rdbuf true true 2) half4) = true := by decide

theorem witness_GieBelongsToPlatform :
    fieldAfter State.gie (step { full4 with schedule := [.setGie false] }) = some false ∧
    fieldAfter State.gie (step { full4 with schedule := [.reset] }) = some true ∧
    fieldAfter State.gie (step (full4.withNext ⟨0x00020034#32, []⟩)) = some true := by decide

theorem witness_BlockRefinesQueue : wrapped4.Inv ∧ wrapped4.wdata.length = (Instr.rdbuf true true 4).payloadLen ∧
    wrapped4.fifo = ⟨true, 4, [3#8, 4#8, 5#8, 6#8]⟩ := ⟨wrapped4_inv, by decide, by decide⟩

/-- Two writes that fill the buffer, then a read of all it holds. -/
theorem witness_FifoOrdering : half4.Inv ∧ half4.cfg = true ∧
    (∀ w ∈ [((⟨0x00010032#32, [5#8]⟩ : Transaction), [5#8]), (⟨0x00060013#32, []⟩, [6#8])], w.1.writes = some w.2) ∧
    decode 0x00040034#32 = .ok (.rdbuf true true 4) ∧ 1 + 1 ≤ half4.free ∧ 4 ≤ half4.used + (1 + 1) :=
  ⟨half4_inv, by decide, by decide, by rfl, by decide, by decide⟩

/-- A drained instance and a fresh one, and a run of the drained one. -/
theorem witness_DrainedEqualsFresh : drained4.Inv ∧ fresh4.Inv ∧ drained4.cfg = true ∧ fresh4.cfg = true ∧ drained4.cap = fresh4.cap ∧
    drained4.used = 0 ∧ fresh4.head = 0#10 ∧ fresh4.tail = 0#10 ∧ drained4.head ≠ fresh4.head ∧
    SameQueue (drained4.withNext ⟨0x00070013#32, []⟩) (fresh4.withNext ⟨0x00070013#32, []⟩) ∧
    completes (step (drained4.withNext ⟨0x00070013#32, []⟩)) = true :=
  ⟨drained4_inv, fresh4_inv, by decide, by decide, by decide, by decide, by decide, by decide, by decide,
    ⟨by decide, by decide, by decide, by decide, by decide, by decide⟩, by decide⟩

/-- Between two commands of the consumer the producer writes a byte, and between two of the producer the consumer takes one. -/
theorem witness_PolledValuesAreLowerBounds : half4.Inv ∧
    (half4.withNext ⟨0x00070013#32, []⟩).phaseAvoids Instr.drains 1 = true ∧
    completes (step (half4.withNext ⟨0x00070013#32, []⟩)) = true ∧ 2 ≤ half4.used ∧
    (half4.withNext ⟨0x00010034#32, []⟩).phaseAvoids Instr.fills 1 = true ∧
    completes (step (half4.withNext ⟨0x00010034#32, []⟩)) = true ∧ 0 < half4.free :=
  ⟨half4_inv, by decide, by decide, by decide, by decide, by decide, by decide⟩

end Sys2Proof.Tests
end

section
/-! SUPPORT. How a command ends: what its body answers is a failure, which writes STATUS and RDATA alone (and may have drawn), or the
success of that command with its writes. -/

namespace Sys2Proof.Machine

theorem Status.code_eq_zero {S : Status} : S.code = 0#3 ↔ S = .ok := by cases S <;> decide

/-- The failures of a command: STATUS and RDATA are written, and CREATE may have made draws (R85, R95). -/
inductive Fails (s : State) : Instr → State → Prop
  | raised {i : Instr} {S : Status} (hS : S ≠ .ok) : Fails s i (s.raise S)
  | storageDraw {c : Nat} : Fails s (.create c) (s.afterDraw.raise .allocationFailed)
  | controlDraw {c : Nat} : Fails s (.create c) (s.afterDraw.afterDraw.raise .allocationFailed)

/-- The success of each command: the checks it has passed, and its writes (R77, R83, R86, R90 to R92). -/
inductive Succeeds (s : State) : Instr → State → Prop
  | create {c : Nat} (hcfg : s.cfg = false) (hc : c ≤ Config.maxCap) (hd : s.nextDraw = true) (hd' : s.afterDraw.nextDraw = true) :
      Succeeds s (.create c) ((s.afterDraw.afterDraw.commitCreate (capOf c)).finish [])
  | wrbuf {bv : Bool} {n : Nat} {m : Memory} (hv : s.handleValid bv = true) (hn : n ≠ 0) (hfit : n ≤ s.free)
      (hw : writeFrom s.head.toNat s.size 0 s.wdata s.stor = .ok m) :
      Succeeds s (.wrbuf bv true n) ((s.commitWrite m (advance s.head n s.size)).finish [])
  | wrbyte {bv : Bool} {b : Byte} (hv : s.handleValid bv = true) (hfit : s.free ≠ 0) (hle : s.head.toNat ≤ Config.maxCap) :
      Succeeds s (.wrbyte bv b) ((s.commitWrite (s.stor.put s.head.toNat b) (advance s.head 1 s.size)).finish [])
  | rdbuf {bv : Bool} {n : Nat} {vs : List Byte} (hv : s.handleValid bv = true) (hn : n ≠ 0) (hheld : n ≤ s.used)
      (hr : readFrom s.stor s.tail.toNat s.size 0 n = .ok vs) :
      Succeeds s (.rdbuf bv true n) ((s.commitTail (advance s.tail n s.size)).finish vs)
  | peek {bv : Bool} {n : Nat} {vs : List Byte} (hv : s.handleValid bv = true) (hn : n ≠ 0) (hheld : n ≤ s.used)
      (hr : readFrom s.stor s.tail.toNat s.size 0 n = .ok vs) : Succeeds s (.peek bv true n) (s.finish vs)
  | consume {bv : Bool} {n : Nat} (hv : s.handleValid bv = true) (hn : n ≠ 0) (hheld : n ≤ s.used) :
      Succeeds s (.consume bv n) ((s.commitTail (advance s.tail n s.size)).finish [])

theorem bodyOf_fails_or_succeeds {i : Instr} {s t : State} (h : bodyOf i s = .ok t) : Fails s i t ∨ Succeeds s i t := by
  cases i with
  | create c =>
    obtain rfl : createBody c s = t := by simpa [bodyOf] using h
    rcases createBody_cases c s with ⟨-, e⟩ | ⟨-, -, e⟩ | ⟨-, -, -, e⟩ | ⟨-, -, -, -, e⟩ | ⟨hcfg, hc, hd, hd', e⟩ <;> rw [e]
    · exact .inl (.raised nofun)
    · exact .inl (.raised nofun)
    · exact .inl .storageDraw
    · exact .inl .controlDraw
    · exact .inr (.create hcfg hc hd hd')
  | wrbuf bv dv n =>
    rcases wrbufBody_cases h with ⟨-, rfl⟩ | ⟨-, -, -, -, rfl⟩ | ⟨hv, rfl, hn, hfit, m, hw, rfl⟩
    · exact .inl (.raised nofun)
    · exact .inl (.raised nofun)
    · exact .inr (.wrbuf hv hn hfit hw)
  | wrbyte bv b =>
    rcases wrbyteBody_cases h with ⟨-, rfl⟩ | ⟨-, -, rfl⟩ | ⟨hv, hfit, hle, rfl⟩
    · exact .inl (.raised nofun)
    · exact .inl (.raised nofun)
    · exact .inr (.wrbyte hv hfit hle)
  | rdbuf bv dv n =>
    rcases rdbufBody_cases h with ⟨-, rfl⟩ | ⟨-, -, -, -, rfl⟩ | ⟨hv, rfl, hn, hheld, vs, hr, rfl⟩
    · exact .inl (.raised nofun)
    · exact .inl (.raised nofun)
    · exact .inr (.rdbuf hv hn hheld hr)
  | peek bv dv n =>
    rcases peekBody_cases h with ⟨-, rfl⟩ | ⟨-, -, -, -, rfl⟩ | ⟨hv, rfl, hn, hheld, vs, hr, rfl⟩
    · exact .inl (.raised nofun)
    · exact .inl (.raised nofun)
    · exact .inr (.peek hv hn hheld hr)
  | consume bv n =>
    rcases consumeBody_cases h with ⟨-, rfl⟩ | ⟨-, -, -, rfl⟩ | ⟨hv, hn, hheld, rfl⟩
    · exact .inl (.raised nofun)
    · exact .inl (.raised nofun)
    · exact .inr (.consume hv hn hheld)

theorem exec_fails_or_succeeds {i : Instr} {s t : State} (h : exec i s = .next t) : Fails s i t ∨ Succeeds s i t :=
  bodyOf_fails_or_succeeds (exec_next h).2

theorem Fails.keeps_block {i : Instr} {s t : State} (h : Fails s i t) :
    t.cfg = s.cfg ∧ t.cap = s.cap ∧ t.head = s.head ∧ t.tail = s.tail ∧ t.stor = s.stor := by
  cases h <;> exact ⟨rfl, rfl, rfl, rfl, rfl⟩

theorem Fails.status_ne_zero {i : Instr} {s t : State} (h : Fails s i t) : t.status ≠ 0#3 := by
  cases h with
  | raised hS => exact fun h0 => hS (Status.code_eq_zero.mp h0)
  | storageDraw => exact nofun
  | controlDraw => exact nofun

theorem Fails.rdata_eq_nil {i : Instr} {s t : State} (h : Fails s i t) : t.rdata = [] := by cases h <;> rfl

theorem Succeeds.status_eq_zero {i : Instr} {s t : State} (h : Succeeds s i t) : t.status = 0#3 := by cases h <;> rfl

/-- A word that completes leaves the agents and the responses as they were: its completion alone is recorded, after it. -/
theorem runWord_keeps_run {w : Word} {s t : State} (h : runWord w s = .next t) :
    t.agents = s.agents ∧ t.responses = s.responses := by
  rcases runWord_next h with ⟨i, -, hi⟩ | ⟨e, -, -, rfl⟩
  · obtain ⟨-, -, hagents, -, hresponses⟩ := bodyOf_platform (exec_next hi).2
    exact ⟨hagents, hresponses⟩
  · exact ⟨rfl, rfl⟩

/-- A step in which an agent issues its next command runs that word and records its completion (R37, R62). -/
theorem step_issue_next {s t : State} {a : Nat} {es : List Event} {x : Transaction} (hs : s.schedule = .issue a :: es)
    (hx : s.fetch a = some x) (h : step s = .next t) :
    ∃ u, runWord x.cmd ((s.dropEvent es).present a x) = .next u ∧ t = u.record a := by
  rcases step_next h with ⟨h1, -⟩ | ⟨_, h1, -⟩ | ⟨_, _, h1, -⟩ | ⟨b, _, h1, h2, -⟩ | ⟨b, fs, y, u, h1, h2, hu, rfl⟩ <;> rw [hs] at h1
  · cases h1
  · cases h1
  · cases h1
  · cases h1
    rw [hx] at h2
    cases h2
  · cases h1
    obtain rfl : x = y := by rw [hx] at h2; exact Option.some.inj h2
    exact ⟨u, hu, rfl⟩

end Sys2Proof.Machine
end

section
/-! PROOFS. The state's registers and derived values (10_state.md). -/

namespace Sys2Proof.Machine

/-! ### The response of a command -/

/-- RDATA is non-empty only for a successful RDBUF or PEEK. -/
theorem runWord_rdata_ne_nil {w : Word} {s t : State} (h : runWord w s = .next t) (hr : t.rdata ≠ []) :
    t.status = 0#3 ∧ ∃ bv dv len, decode w = .ok (.rdbuf bv dv len) ∨ decode w = .ok (.peek bv dv len) := by
  rcases runWord_next h with ⟨i, hw, hi⟩ | ⟨e, -, -, rfl⟩
  · rcases exec_fails_or_succeeds hi with hf | hs
    · exact absurd hf.rdata_eq_nil hr
    · refine ⟨hs.status_eq_zero, ?_⟩
      cases hs with
      | rdbuf => exact ⟨_, _, _, .inl hw⟩
      | peek => exact ⟨_, _, _, .inr hw⟩
      | create => exact absurd rfl hr
      | wrbuf => exact absurd rfl hr
      | wrbyte => exact absurd rfl hr
      | consume => exact absurd rfl hr
  · exact absurd rfl hr

/-- A successful RDBUF or PEEK returns what the read loop answers from TAIL on. -/
theorem exec_read_rdata {i : Instr} {bv dv : Bool} {len : Nat} {s t : State} (hi : i = .rdbuf bv dv len ∨ i = .peek bv dv len)
    (h : exec i s = .next t) (h0 : t.status = 0#3) : readFrom s.stor s.tail.toNat s.size 0 len = .ok t.rdata := by
  rcases exec_fails_or_succeeds h with hf | hs
  · exact absurd h0 hf.status_ne_zero
  · rcases hi with rfl | rfl <;> cases hs <;> assumption

/-- The bytes a successful RDBUF or PEEK returns, oldest first. -/
theorem runWord_read_bytes {w : Word} {bv dv : Bool} {len : Nat} {s t : State} (h : runWord w s = .next t)
    (hw : decode w = .ok (.rdbuf bv dv len) ∨ decode w = .ok (.peek bv dv len)) (h0 : t.status = 0#3) :
    t.rdata.length = len ∧ ∀ k, k < len → Memory.lookup s.stor ((s.tail.toNat + k) % s.size) = t.rdata[k]? := by
  obtain ⟨i, hi, hx⟩ | ⟨e, he, -, -⟩ := runWord_next h
  · have hread := exec_read_rdata (by simpa [hi] using hw) hx h0
    simpa [slotAt] using readFrom_spec hread
  · simp [he] at hw

/-- Settles O4: the step runs the word of the agent and records its completion, and the word's RDATA is its read loop's answer. -/
theorem completedCommandResponds : Obligations.CompletedCommandResponds := by
  intro s t a es x g hs hg hx h
  have hfetch : s.fetch a = some x := by simp [State.fetch, hg, hx]
  obtain ⟨u, hu, rfl⟩ := step_issue_next hs hfetch h
  obtain ⟨hagents, hresponses⟩ := runWord_keeps_run hu
  refine ⟨?_, ?_, ?_, runWord_rdata_ne_nil (t := u) hu,
    fun bv dv len hw h0 => runWord_read_bytes (s := (s.dropEvent es).present a x) (t := u) hu hw h0⟩
  · simp [hresponses]
  · simp [hagents, advanceAgent, hg]
  · intro b hb
    simp [hagents, advanceAgent, hb.symm]

/-! ### The derived values -/

theorem State.used_of_tail_le {s : State} (hh : s.head.toNat < s.size) (hle : s.tail.toNat ≤ s.head.toNat) :
    s.used = s.head.toNat - s.tail.toNat := by
  have hshift : s.head.toNat + s.size - s.tail.toNat = s.head.toNat - s.tail.toNat + s.size := by omega
  rw [State.used, hshift, Nat.add_mod_right, Nat.mod_eq_of_lt (by omega)]

theorem State.used_of_head_lt {s : State} (ht : s.tail.toNat < s.size) (hlt : s.head.toNat < s.tail.toNat) :
    s.used = s.head.toNat + s.size - s.tail.toNat := Nat.mod_eq_of_lt (by omega)

/-- USED without the modulus (R25). -/
theorem State.used_eq_ite {s : State} (hh : s.head.toNat < s.size) (ht : s.tail.toNat < s.size) :
    s.used = if s.tail.toNat ≤ s.head.toNat then s.head.toNat - s.tail.toNat else s.head.toNat + s.size - s.tail.toNat := by
  split
  · exact State.used_of_tail_le hh ‹_›
  · exact State.used_of_head_lt ht (by omega)

/-- Settles O11: USED is the distance from TAIL to HEAD, and USED and FREE add up to CAP. -/
theorem usedAndFree : Obligations.UsedAndFree := by
  intro s hh ht
  have hsum := s.used_add_free
  exact ⟨rfl, State.used_eq_ite hh ht, rfl, by omega, by omega⟩

theorem State.empty_iff {s : State} : s.empty = true ↔ s.head = s.tail := beq_iff_eq

theorem State.full_iff {s : State} : s.full = true ↔ s.used = s.cap.toNat := beq_iff_eq

theorem State.empty_iff_used {s : State} (hh : s.head.toNat < s.size) (ht : s.tail.toNat < s.size) :
    s.empty = true ↔ s.used = 0 := by
  rw [State.empty_iff, State.used_eq_ite hh ht, BitVec.toNat_eq]
  split <;> omega

theorem State.full_iff_free {s : State} : s.full = true ↔ s.free = 0 := by
  have hsum := s.used_add_free
  rw [State.full_iff]
  omega

/-- FULL is HEAD one slot before TAIL (R28): the slot after HEAD is USED + 1 slots after TAIL. -/
theorem State.full_iff_next_head {s : State} (hh : s.head.toNat < s.size) (ht : s.tail.toNat < s.size) :
    s.full = true ↔ (s.head.toNat + 1) % s.size = s.tail.toNat := by
  have hsize : s.size = s.cap.toNat + 1 := rfl
  rw [State.full_iff, State.used_eq_ite hh ht]
  rcases Nat.lt_or_eq_of_le (Nat.succ_le_of_lt hh) with hlt | heq
  · rw [Nat.mod_eq_of_lt hlt]
    split <;> omega
  · rw [← Nat.succ_eq_add_one, heq, Nat.mod_self]
    split <;> omega

/-- With CAP = 0 there is one slot, and both indices stand at it (R29). -/
theorem State.empty_full_of_cap_zero {s : State} (hh : s.head.toNat < s.size) (ht : s.tail.toNat < s.size) (hc : s.cap = 0#10) :
    s.empty = true ∧ s.full = true := by
  have hsize : s.size = 1 := by simp [State.size, hc]
  have hused := s.used_lt_size
  have hused0 : s.used = 0 := by omega
  exact ⟨(State.empty_iff_used hh ht).mpr hused0, State.full_iff.mpr (by simp [hused0, hc])⟩

/-- Settles O12, from USED without the modulus. -/
theorem emptyAndFull : Obligations.EmptyAndFull := fun _ hh ht =>
  ⟨State.empty_iff, State.empty_iff_used hh ht, State.full_iff, State.full_iff_free, State.full_iff_next_head hh ht,
    State.empty_full_of_cap_zero hh ht⟩

/-- Settles O13: each derived value is a formula over CAP, HEAD and TAIL. -/
theorem flagsDependOnIndicesAlone : Obligations.FlagsDependOnIndicesAlone := by
  intro s t hcap hhead htail
  have hsize : s.size = t.size := by rw [State.size, State.size, hcap]
  have hused : s.used = t.used := by rw [State.used, State.used, hsize, hhead, htail]
  refine ⟨hused, ?_, ?_, ?_⟩
  · rw [State.free, State.free, hsize, hused]
  · rw [State.empty, State.empty, hhead, htail]
  · rw [State.full, State.full, hused, hcap]

/-! ### The writers of the registers -/

theorem createBody_of_configured {s : State} (h : s.cfg = true) (c : Nat) : createBody c s = s.raise .illegalCommand := if_pos h

/-- CFG and CAP change under a successful CREATE alone. -/
theorem Succeeds.keeps_config {i : Instr} {s t : State} (h : Succeeds s i t) :
    (∃ c, i = .create c ∧ s.cfg = false) ∨ t.cfg = s.cfg ∧ t.cap = s.cap := by
  cases h with
  | create hcfg => exact .inl ⟨_, rfl, hcfg⟩
  | wrbuf => exact .inr ⟨rfl, rfl⟩
  | wrbyte => exact .inr ⟨rfl, rfl⟩
  | rdbuf => exact .inr ⟨rfl, rfl⟩
  | peek => exact .inr ⟨rfl, rfl⟩
  | consume => exact .inr ⟨rfl, rfl⟩

/-- HEAD changes under a successful CREATE or write alone. -/
theorem Succeeds.keeps_head {i : Instr} {s t : State} (h : Succeeds s i t) :
    ((∃ c, i = .create c ∧ t.head = 0#10) ∨ (∃ bv dv n, i = .wrbuf bv dv n) ∨ ∃ bv b, i = .wrbyte bv b) ∨ t.head = s.head := by
  cases h with
  | create => exact .inl (.inl ⟨_, rfl, rfl⟩)
  | wrbuf => exact .inl (.inr (.inl ⟨_, _, _, rfl⟩))
  | wrbyte => exact .inl (.inr (.inr ⟨_, _, rfl⟩))
  | rdbuf => exact .inr rfl
  | peek => exact .inr rfl
  | consume => exact .inr rfl

/-- TAIL changes under a successful CREATE, RDBUF or CONSUME alone. -/
theorem Succeeds.keeps_tail {i : Instr} {s t : State} (h : Succeeds s i t) :
    ((∃ c, i = .create c ∧ t.tail = 0#10) ∨ (∃ bv dv n, i = .rdbuf bv dv n) ∨ ∃ bv n, i = .consume bv n) ∨ t.tail = s.tail := by
  cases h with
  | create => exact .inl (.inl ⟨_, rfl, rfl⟩)
  | rdbuf => exact .inl (.inr (.inl ⟨_, _, _, rfl⟩))
  | consume => exact .inl (.inr (.inr ⟨_, _, rfl⟩))
  | wrbuf => exact .inr rfl
  | wrbyte => exact .inr rfl
  | peek => exact .inr rfl

theorem runWord_keeps_config {w : Word} {s t : State} (hc : s.cfg = true) (h : runWord w s = .next t) :
    t.cfg = true ∧ t.cap = s.cap := by
  rcases runWord_next h with ⟨i, -, hi⟩ | ⟨e, -, -, rfl⟩
  · rcases exec_fails_or_succeeds hi with hf | hs
    · obtain ⟨hcfg, hcap, -⟩ := hf.keeps_block
      exact ⟨hcfg.trans hc, hcap⟩
    · rcases hs.keeps_config with ⟨c, -, hcfg⟩ | ⟨hcfg, hcap⟩
      · simp [hc] at hcfg
      · exact ⟨hcfg.trans hc, hcap⟩
  · exact ⟨hc, rfl⟩

theorem step_keeps_config {s t : State} (hc : s.cfg = true) (hr : s.schedule.head? ≠ some .reset) (h : step s = .next t) :
    t.cfg = true ∧ t.cap = s.cap := by
  rcases step_next h with ⟨-, rfl⟩ | ⟨es, hs, -⟩ | ⟨v, es, -, rfl⟩ | ⟨a, es, -, -, rfl⟩ | ⟨a, es, x, u, -, -, hu, rfl⟩
  · exact ⟨hc, rfl⟩
  · simp [hs] at hr
  · exact ⟨hc, rfl⟩
  · exact ⟨hc, rfl⟩
  · exact runWord_keeps_config (s := (s.dropEvent es).present a x) (t := u) hc hu

/-- Settles O28: of the commands that succeed CREATE alone writes CFG and CAP, and it succeeds only with CFG = 0. -/
theorem configurationIsWriteOnce : Obligations.ConfigurationIsWriteOnce := by
  refine ⟨fun s t hc hr h => step_keeps_config hc hr h, fun s c hp hc => ?_⟩
  have hexec : exec (.create c) s = .next (createBody c s) := execCreate_eq c s hp
  rw [hexec, createBody_of_configured hc]
  rfl

/-- No command reads STATUS, and every command writes it. -/
theorem exec_putStatus (i : Instr) (s : State) (c : StatusCode) : exec i { s with status := c } = exec i s := by
  have hbody : bodyOf i { s with status := c } = bodyOf i s := by cases i <;> rfl
  rw [exec_eq, exec_eq, hbody]

/-- Settles O50: a failure writes none of the four registers, and each success writes its own. -/
theorem writersOfRegisters : Obligations.WritersOfRegisters := by
  intro s t i h
  have hstatus : ∀ c, exec i { s with status := c } = .next t := fun c => (exec_putStatus i s c).trans h
  rcases exec_fails_or_succeeds h with hf | hs
  · obtain ⟨hcfg, hcap, hhead, htail, -⟩ := hf.keeps_block
    exact ⟨absurd hhead, absurd htail, fun _ => ⟨hhead, htail⟩, by simp [hcfg, hcap], hstatus⟩
  · have h0 := hs.status_eq_zero
    refine ⟨fun hne => ⟨h0, hs.keeps_head.resolve_right hne⟩, fun hne => ⟨h0, hs.keeps_tail.resolve_right hne⟩, ?_, ?_, hstatus⟩
    · rintro ⟨bv, dv, n, rfl⟩
      cases hs
      exact ⟨rfl, rfl⟩
    · intro hne
      rcases hs.keeps_config with ⟨c, hc, -⟩ | ⟨hcfg, hcap⟩
      · exact ⟨h0, c, hc⟩
      · exact absurd hne (by simp [hcfg, hcap])

/-! ### Reset -/

/-- The first state is what a reset of it leaves. -/
theorem State.reset_eq_blockReset : State.reset = State.reset.blockReset := rfl

theorem State.blockReset_values (s : State) :
    s.blockReset.size = 1 ∧ s.blockReset.used = 0 ∧ s.blockReset.free = 0 ∧ s.blockReset.empty = true ∧ s.blockReset.full = true := by
  have hsum : s.blockReset.used + s.blockReset.free = 0 := State.used_add_free _
  exact ⟨rfl, by omega, by omega, State.empty_full_of_cap_zero Nat.zero_lt_one Nat.zero_lt_one rfl⟩

/-- Settles O1: the first state is a reset state too, and a reset state's derived values are those of CAP = HEAD = TAIL = 0. -/
theorem resetValues : Obligations.ResetValues := by
  refine ⟨fun r hr => ?_, fun _ => rfl⟩
  obtain ⟨s, rfl⟩ : ∃ s : State, r = s.blockReset := hr.elim (fun h => ⟨_, h.trans State.reset_eq_blockReset⟩) id
  exact ⟨rfl, rfl, rfl, rfl, rfl, rfl, fun _ => rfl, s.blockReset_values⟩

end Sys2Proof.Machine
end

section
/-! SUPPORT. The invariant along a run: every step keeps it, a command faults only where its storage loop does, and in a state that
meets the invariant no storage loop faults, so no run from such a state ends in a fault. -/

namespace Sys2Proof.Machine

/-! ### Every step keeps the invariant -/

theorem State.Inv.afterDraw {s : State} (h : s.Inv) : s.afterDraw.Inv := h.of_block rfl rfl rfl rfl rfl rfl rfl

theorem State.blockReset_inv (s : State) : s.blockReset.Inv := by
  have hused : s.blockReset.used = 0 := Nat.lt_one_iff.mp s.blockReset.used_lt_size
  exact ⟨Nat.zero_le _, Nat.zero_lt_one, Nat.zero_lt_one, nofun, nofun, .nil, nofun, by simp [hused], fun _ => ⟨rfl, rfl, rfl, rfl⟩⟩

theorem Fails.keeps_inv {i : Instr} {s t : State} (h : s.Inv) (hf : Fails s i t) : t.Inv := by
  cases hf with
  | raised => exact h.raise _
  | storageDraw => exact h.afterDraw.raise _
  | controlDraw => exact h.afterDraw.afterDraw.raise _

theorem Succeeds.keeps_inv {i : Instr} {s t : State} (h : s.Inv) (hp : s.wdata.length = i.payloadLen) (hs : Succeeds s i t) :
    t.Inv := by
  cases hs with
  | create hcfg hc => exact (h.afterDraw.afterDraw.commitCreate hcfg hc).finish _
  | wrbuf hv _ hfit hw =>
    obtain rfl : s.wdata.length = _ := hp
    exact (h.commitWrite (State.handleValid_iff.mp hv).2 hfit hw).finish _
  | @wrbyte _ b hv hfit hle =>
    have hw := writeFrom_one b h.headLegal hle
    exact (h.commitWrite (w := [b]) (State.handleValid_iff.mp hv).2 (Nat.one_le_iff_ne_zero.mpr hfit) hw).finish _
  | rdbuf hv _ hheld => exact (h.commitTail (State.handleValid_iff.mp hv).2 hheld).finish _
  | peek => exact h.finish _
  | consume hv _ hheld => exact (h.commitTail (State.handleValid_iff.mp hv).2 hheld).finish _

theorem exec_keeps_inv {i : Instr} {s t : State} (h : s.Inv) (ht : exec i s = .next t) : t.Inv :=
  (exec_fails_or_succeeds ht).elim (Fails.keeps_inv h) (Succeeds.keeps_inv h (exec_next ht).1)

theorem runWord_keeps_inv {w : Word} {s t : State} (h : s.Inv) (ht : runWord w s = .next t) : t.Inv := by
  rcases runWord_next ht with ⟨i, -, hi⟩ | ⟨e, -, -, rfl⟩
  · exact exec_keeps_inv h hi
  · exact h.raise _

theorem State.Inv.present {s : State} (h : s.Inv) (es : List Event) (a : Nat) (x : Transaction) :
    ((s.dropEvent es).present a x).Inv := h.of_block rfl rfl rfl rfl rfl rfl rfl

theorem step_keeps_inv {s t : State} (h : s.Inv) (ht : step s = .next t) : t.Inv := by
  rcases step_next ht with ⟨-, rfl⟩ | ⟨es, -, rfl⟩ | ⟨v, es, -, rfl⟩ | ⟨a, es, -, -, rfl⟩ | ⟨a, es, x, u, -, -, hu, rfl⟩
  · exact h
  · exact State.blockReset_inv _
  · exact h.of_block rfl rfl rfl rfl rfl rfl rfl
  · exact h.of_block rfl rfl rfl rfl rfl rfl rfl
  · exact (runWord_keeps_inv (h.present es a x) hu).of_block rfl rfl rfl rfl rfl rfl rfl

/-! ### Where a fault comes from -/

/-- A command's body faults only where its storage access does: a read of bytes that are held, or a write from HEAD on. -/
theorem bodyOf_fault {i : Instr} {s : State} {f : Fault} (h : bodyOf i s = .error f) :
    (∃ n, n ≤ s.used ∧ readFrom s.stor s.tail.toNat s.size 0 n = .error f) ∨
    writeFrom s.head.toNat s.size 0 s.wdata s.stor = .error f ∨ ∃ b, memWrite s.stor s.head.toNat b = .error f := by
  cases i with
  | create c => cases h
  | wrbuf bv dv n =>
    simp only [bodyOf, wrbufBody] at h
    iterate 4 (split at h; · cases h)
    split at h
    · cases h
      exact .inr (.inl (by assumption))
    · cases h
  | wrbyte bv b =>
    simp only [bodyOf, wrbyteBody] at h
    iterate 2 (split at h; · cases h)
    split at h
    · cases h
      exact .inr (.inr ⟨b, by assumption⟩)
    · cases h
  | rdbuf bv dv n =>
    simp only [bodyOf, rdbufBody] at h
    iterate 4 (split at h; · cases h)
    split at h
    · cases h
      exact .inl ⟨n, by omega, by assumption⟩
    · cases h
  | peek bv dv n =>
    simp only [bodyOf, peekBody] at h
    iterate 4 (split at h; · cases h)
    split at h
    · cases h
      exact .inl ⟨n, by omega, by assumption⟩
    · cases h
  | consume bv n =>
    obtain ⟨t, ht⟩ := consumeBody_total bv n s
    cases ht.symm.trans h

theorem exec_fault {i : Instr} {s : State} {f : Fault} (h : exec i s = .fault f) : bodyOf i s = .error f := by
  rw [exec_eq] at h
  split at h
  · cases hb : bodyOf i s with
    | ok t => rw [hb] at h; cases h
    | error g => rw [hb] at h; cases h; rfl
  · cases h

/-- An illegal word never faults: it completes or is refused (R69, R70). -/
theorem illegalCommand_ne_fault (s : State) (f : Fault) : illegalCommand s ≠ .fault f := by
  unfold illegalCommand withPayload
  split <;> nofun

theorem runWord_fault {w : Word} {s : State} {f : Fault} (h : runWord w s = .fault f) :
    ∃ i, decode w = .ok i ∧ exec i s = .fault f := by
  unfold runWord at h
  split at h
  · exact ⟨_, by assumption, h⟩
  · exact absurd h (illegalCommand_ne_fault s f)

theorem completion_fault {a : Nat} {o : Host.Outcome State Fault Refusal} {f : Fault} (h : completion a o = .fault f) :
    o = .fault f := by
  cases o with
  | next t => cases h
  | fault g => exact h
  | refused r => cases h

/-- A step faults only in the command that an agent issues. -/
theorem step_fault {s : State} {f : Fault} (h : step s = .fault f) :
    ∃ a es x, s.schedule = .issue a :: es ∧ s.fetch a = some x ∧ runWord x.cmd ((s.dropEvent es).present a x) = .fault f := by
  unfold step at h
  split at h
  · cases h
  · cases h
  · cases h
  · split at h
    · cases h
    · exact ⟨_, _, _, by assumption, by assumption, completion_fault h⟩

/-! ### No fault in a state that meets the invariant -/

theorem State.Inv.bodyOf_ne_fault {s : State} (h : s.Inv) (i : Instr) (f : Fault) : bodyOf i s ≠ .error f := by
  intro hb
  have hcap := State.size_le_of_cap h.capLegal
  rcases bodyOf_fault hb with ⟨n, hn, hr⟩ | hw | ⟨b, hw⟩
  · obtain ⟨q, hq, -⟩ := h.queue_ok
    cases (h.queue_split hn hq).1.symm.trans hr
  · obtain ⟨m, hm⟩ := writeFrom_completes s.head.toNat 0 s.wdata s.stor s.size_pos hcap
    cases hm.symm.trans hw
  · have hle : s.head.toNat ≤ Config.maxCap := Nat.le_of_lt_succ (h.headLegal.trans_le hcap)
    cases (memWrite_eq_ok.mpr ⟨hle, rfl⟩).symm.trans hw

theorem State.Inv.runWord_ne_fault {s : State} (h : s.Inv) (w : Word) (f : Fault) : runWord w s ≠ .fault f := by
  intro hf
  obtain ⟨i, -, hi⟩ := runWord_fault hf
  exact h.bodyOf_ne_fault i f (exec_fault hi)

theorem State.Inv.step_ne_fault {s : State} (h : s.Inv) (f : Fault) : step s ≠ .fault f := by
  intro hf
  obtain ⟨a, es, x, -, -, hx⟩ := step_fault hf
  exact (h.present es a x).runWord_ne_fault x.cmd f hx

/-- A run is safe from every state that meets the invariant. -/
theorem State.Inv.safeRun {s : State} (h : s.Inv) (k : Nat) : safeRun k s := by
  intro f
  induction k generalizing s with
  | zero => exact nofun
  | succ k ih =>
    cases hs : step s with
    | next t =>
      rw [run_succ_of_next hs]
      exact ih (step_keeps_inv h hs)
    | fault g => exact absurd hs (h.step_ne_fault g)
    | refused r =>
      have hc : core.step s = .refused r := hs
      simp [Host.Core.run, hc]

end Sys2Proof.Machine
end

section
/-! PROOFS. The storage and its addresses (20_memory.md). -/

namespace Sys2Proof.Machine

/-! ### Unwritten bytes -/

theorem memRead_unwritten {m : Memory} {a : Nat} (ha : a ≤ Config.maxCap) (hm : m.lookup a = none) :
    memRead m a = .error (.unwrittenRead a) := by
  simp [memRead, ha, hm]

/-- The read loop stops at its first unwritten byte, with that byte's address (R44). -/
theorem readFrom_unwritten {m : Memory} {base size n k j : Nat} (hs : 0 < size) (hcap : size ≤ Config.maxCap + 1) (hj : j < n)
    (hwritten : ∀ i, i < j → (m.lookup (slotAt base size (k + i))).isSome) (hun : m.lookup (slotAt base size (k + j)) = none) :
    readFrom m base size k n = .error (.unwrittenRead (slotAt base size (k + j))) := by
  have hslot (i : Nat) : slotAt base size i ≤ Config.maxCap := Nat.le_of_lt_succ ((slotAt_lt base i hs).trans_le hcap)
  induction j generalizing n k with
  | zero =>
    obtain ⟨n, rfl⟩ := Nat.exists_eq_succ_of_ne_zero (Nat.ne_zero_of_lt hj)
    simp [readFrom, memRead_unwritten (hslot k) hun]
  | succ j ih =>
    obtain ⟨n, rfl⟩ := Nat.exists_eq_succ_of_ne_zero (Nat.ne_zero_of_lt hj)
    obtain ⟨v, hv⟩ := Option.isSome_iff_exists.mp (hwritten 0 (Nat.succ_pos j))
    have hread : memRead m (slotAt base size k) = .ok v := memRead_eq_ok.mpr ⟨hslot k, hv⟩
    have hshift (i : Nat) : k + 1 + i = k + (i + 1) := by omega
    have hrest := ih (n := n) (k := k + 1) (by omega) (fun i hi => by rw [hshift]; exact hwritten _ (by omega))
      (by rw [hshift]; exact hun)
    simp [readFrom, hread, hrest, hshift]

/-- After CREATE no byte has a value: it succeeds only with CFG = 0, where nothing has been written (R41, R44). -/
theorem create_stor_empty {c : Nat} {s t : State} (h : s.Inv) (ht : exec (.create c) s = .next t) (h0 : t.status = 0#3) :
    t.stor = [] := by
  rcases exec_fails_or_succeeds ht with hf | hs
  · exact absurd h0 hf.status_ne_zero
  · cases hs with
    | create hcfg =>
      obtain ⟨-, -, -, hstor⟩ := h.unconfigured hcfg
      exact hstor

/-! ### What the data commands answer once their checks have passed -/

theorem wrbufBody_of_valid {s : State} {bv : Bool} {n : Nat} (hv : s.handleValid bv = true) (hn : 0 < n) (hfit : n ≤ s.free) :
    wrbufBody bv true n s = (writeFrom s.head.toNat s.size 0 s.wdata s.stor).map fun m =>
      (s.commitWrite m (advance s.head n s.size)).finish [] := by
  simp only [wrbufBody, hv, hn.ne', hfit.not_gt]
  cases writeFrom s.head.toNat s.size 0 s.wdata s.stor <;> rfl

theorem rdbufBody_of_valid {s : State} {bv : Bool} {n : Nat} (hv : s.handleValid bv = true) (hn : 0 < n) (hheld : n ≤ s.used) :
    rdbufBody bv true n s = (readFrom s.stor s.tail.toNat s.size 0 n).map fun vs =>
      (s.commitTail (advance s.tail n s.size)).finish vs := by
  simp only [rdbufBody, hv, hn.ne', hheld.not_gt]
  cases readFrom s.stor s.tail.toNat s.size 0 n <;> rfl

theorem peekBody_of_valid {s : State} {bv : Bool} {n : Nat} (hv : s.handleValid bv = true) (hn : 0 < n) (hheld : n ≤ s.used) :
    peekBody bv true n s = (readFrom s.stor s.tail.toNat s.size 0 n).map fun vs => s.finish vs := by
  simp only [peekBody, hv, hn.ne', hheld.not_gt]
  cases readFrom s.stor s.tail.toNat s.size 0 n <;> rfl

/-- Settles O42: a run after a reset keeps the invariant, under which no storage loop faults, and the read loop stops at its first
unwritten byte. -/
theorem unwrittenBytesHaveNoValue : Obligations.UnwrittenBytesHaveNoValue := by
  refine ⟨fun _ => rfl, fun s t c h ht h0 a => ?_, fun s k => (State.blockReset_inv s).safeRun k, ?_⟩
  · rw [create_stor_empty h ht h0]
    rfl
  · intro s len k hc hcap hp hk hheld hwritten hun
    have hv : s.handleValid true = true := State.handleValid_iff.mpr ⟨rfl, hc⟩
    have hread : readFrom s.stor s.tail.toNat s.size 0 len = .error (.unwrittenRead (slotAt s.tail.toNat s.size k)) := by
      simpa using readFrom_unwritten (k := 0) s.size_pos (State.size_le_of_cap hcap) hk
        (by simpa [slotAt] using hwritten) (by simpa [slotAt] using hun)
    have hpos : 0 < len := Nat.zero_lt_of_lt hk
    constructor
    · refine (execRdbuf_eq true true len s hp).trans ?_
      rw [rdbufBody_of_valid hv hpos hheld, hread]
      rfl
    · refine (execPeek_eq true true len s hp).trans ?_
      rw [peekBody_of_valid hv hpos hheld, hread]
      rfl

/-- Settles O9: no storage loop faults under the invariant, and the live region holds the queue's bytes. -/
theorem noUnwrittenByteRead : Obligations.NoUnwrittenByteRead := by
  intro s h
  obtain ⟨q, hq, hlen⟩ := h.queue_ok
  exact ⟨h.step_ne_fault, q, hq, hlen, by simpa [slotAt] using (readFrom_spec hq).2⟩

/-! ### Addresses -/

theorem slotAt_of_add_lt {base size k : Nat} (h : base + k < size) : slotAt base size k = base + k := Nat.mod_eq_of_lt h

/-- Past the end of the storage the addresses start again from 0. -/
theorem slotAt_wrap {base size k : Nat} (hb : base ≤ size) (hk : k < size) : slotAt base size (size - base + k) = k := by
  rw [slotAt, ← Nat.add_assoc, Nat.add_sub_cancel' hb, Nat.add_mod_left, Nat.mod_eq_of_lt hk]

/-- The two segments are the modular sequence cut where it wraps (R48). -/
theorem segmentAddresses_eq {base len size : Nat} (hb : base < size) (hl : len ≤ size) :
    segmentAddresses base len size = (List.range len).map (slotAt base size) := by
  have hcut : len = firstSegment base len size + (len - firstSegment base len size) := by
    simp only [firstSegment]
    omega
  conv_rhs => rw [hcut, List.range_add, List.map_append, List.map_map]
  have hfirst : ∀ k ∈ List.range (firstSegment base len size), base + k = slotAt base size k := by
    intro k hk
    rw [List.mem_range, firstSegment] at hk
    exact (slotAt_of_add_lt (by omega)).symm
  have hsecond : ∀ k ∈ List.range (len - firstSegment base len size), k = slotAt base size (firstSegment base len size + k) := by
    intro k hk
    rw [List.mem_range, firstSegment] at hk
    have hfull : firstSegment base len size = size - base := Nat.min_eq_right (by omega)
    rw [hfull, slotAt_wrap hb.le (by omega)]
  rw [segmentAddresses, List.map_congr_left hfirst]
  congr 1
  exact (List.map_id _).symm.trans (List.map_congr_left hsecond)

/-- Settles O15: the split is the modular sequence, whose addresses are all below SIZE. -/
theorem twoSegmentSplit : Obligations.TwoSegmentSplit := by
  intro base len size hb hl
  refine ⟨rfl, rfl, segmentAddresses_eq hb hl, fun a ha => ?_⟩
  rw [segmentAddresses_eq hb hl] at ha
  obtain ⟨k, -, rfl⟩ := List.mem_map.mp ha
  exact slotAt_lt base k (Nat.zero_lt_of_lt hb)

theorem State.free_le_cap (s : State) : s.free ≤ s.cap.toNat := by
  have := s.used_add_free
  omega

theorem State.used_le_cap (s : State) : s.used ≤ s.cap.toNat := by
  have := s.used_add_free
  omega

/-- An index advanced by at most CAP needs at most one subtraction of SIZE (R49). -/
theorem advance_subtracts_once {s : State} {base : Index} {len : Nat} (hb : base.toNat < s.size) (hl : len ≤ s.cap.toNat) :
    len ≤ s.cap.toNat ∧ base.toNat + len ≤ 2 * s.cap.toNat ∧
    (advance base len s.size).toNat = (base.toNat + len) % s.size ∧
    (advance base len s.size).toNat = if base.toNat + len ≥ s.size then base.toNat + len - s.size else base.toNat + len := by
  have hsize : s.size = s.cap.toNat + 1 := rfl
  refine ⟨hl, by omega, advance_toNat s base len, ?_⟩
  rw [advance_toNat]
  split
  · rw [Nat.mod_eq_sub_mod ‹_›, Nat.mod_eq_of_lt (by omega)]
  · exact Nat.mod_eq_of_lt (by omega)

/-- Settles O16: a success has checked LEN against FREE or USED, which CAP bounds, and has advanced its index. -/
theorem indexAdvanceSubtractsOnce : Obligations.IndexAdvanceSubtractsOnce := by
  intro s t i len hh ht h h0
  rcases exec_fails_or_succeeds h with hf | hs
  · exact absurd h0 hf.status_ne_zero
  constructor
  · rintro (⟨bv, dv, rfl⟩ | ⟨bv, b, rfl, rfl⟩)
    · cases hs with
      | wrbuf _ _ hfit => exact advance_subtracts_once hh (hfit.trans s.free_le_cap)
    · cases hs with
      | wrbyte _ hfit => exact advance_subtracts_once hh ((Nat.one_le_iff_ne_zero.mpr hfit).trans s.free_le_cap)
  · rintro (⟨bv, dv, rfl⟩ | ⟨bv, rfl⟩)
    · cases hs with
      | rdbuf _ _ hheld => exact advance_subtracts_once ht (hheld.trans s.used_le_cap)
    · cases hs with
      | consume _ _ hheld => exact advance_subtracts_once ht (hheld.trans s.used_le_cap)

/-! ### Transfers -/

/-- Settles O31: the write loop completes, and puts the payload at the LEN slots from HEAD on and nowhere else. -/
theorem wrbufAppends : Obligations.WrbufAppends := by
  intro s len hc hcap hp hpos hfit
  have hv : s.handleValid true = true := State.handleValid_iff.mpr ⟨rfl, hc⟩
  obtain ⟨m, hm⟩ := writeFrom_completes s.head.toNat 0 s.wdata s.stor s.size_pos (State.size_le_of_cap hcap)
  have hlen : 0 + s.wdata.length ≤ s.size := by
    have hsize : s.size = s.cap.toNat + 1 := rfl
    have := s.free_le_cap
    omega
  obtain ⟨hwf, -, hin, hout⟩ := writeFrom_spec s.size_pos hlen hm
  simp only [Nat.zero_add, hp] at hin hout
  refine ⟨m, exec_next_of_body hp ?_, hwf, hin, hout⟩
  rw [bodyOf, wrbufBody_of_valid hv hpos hfit, hm]
  rfl

/-- Settles O37: the read loop completes on written bytes, with the bytes at the LEN slots from TAIL on. -/
theorem readsReturnOldest : Obligations.ReadsReturnOldest := by
  intro s len hc hcap hp hpos hheld hwritten
  have hv : s.handleValid true = true := State.handleValid_iff.mpr ⟨rfl, hc⟩
  obtain ⟨vs, hvs⟩ := readFrom_completes (k := 0) s.size_pos (State.size_le_of_cap hcap)
    (by simpa [slotAt] using hwritten)
  obtain ⟨hlen, hbytes⟩ := readFrom_spec hvs
  refine ⟨vs, hlen, by simpa [slotAt] using hbytes, exec_next_of_body (by rw [hp]; rfl) ?_, exec_next_of_body (by rw [hp]; rfl) ?_⟩
  · rw [bodyOf, rdbufBody_of_valid hv hpos hheld, hvs]
    rfl
  · rw [bodyOf, peekBody_of_valid hv hpos hheld, hvs]
    rfl

/-! ### The command word as bytes -/

theorem wordOfBytes_extract (w : Word) :
    wordOfBytes (w.extractLsb' 0 8) (w.extractLsb' 8 8) (w.extractLsb' 16 8) (w.extractLsb' 24 8) = w := by
  have h24 : w.extractLsb' 24 8 ++ w.extractLsb' 16 8 = w.extractLsb' 16 16 := BitVec.extractLsb'_append_extractLsb'_eq_extractLsb' rfl
  have h16 : w.extractLsb' 16 16 ++ w.extractLsb' 8 8 = w.extractLsb' 8 24 := BitVec.extractLsb'_append_extractLsb'_eq_extractLsb' rfl
  have h8 : w.extractLsb' 8 24 ++ w.extractLsb' 0 8 = w.extractLsb' 0 32 := BitVec.extractLsb'_append_extractLsb'_eq_extractLsb' rfl
  rw [wordOfBytes, h24, h16, h8, BitVec.extractLsb'_eq_self]

/-- Settles O24: the four bytes, most significant last, put together again are the word. -/
theorem commandWordLittleEndian : Obligations.CommandWordLittleEndian := by
  intro w rest
  refine ⟨rfl, ?_⟩
  simp only [bytesOfWord, List.cons_append, List.nil_append, decodeBytes, wordOfBytes_extract]
  cases decode w <;> rfl

end Sys2Proof.Machine
end

section
/-! PROOFS. The encoding (30_encoding.md). A word decodes exactly when one of the six rows of R68 selects it, and the mask of that row
fixes the bits of OP, RSV and the reserved operand bits. -/

namespace Sys2Proof

/-! ### What the rows of R68 select -/

theorem selects_iff {op : Opcode} {w : Word} : selects op w = true ↔ w &&& op.mask = op.fixedBits := beq_iff_eq

theorem Opcode.number_injective {op op' : Opcode} (h : op.number = op'.number) : op = op' :=
  Option.some.inj (by rw [← opcodeOf_number, h, opcodeOf_number])

theorem Opcode.number_range (op : Opcode) : 1 ≤ op.number.toNat ∧ op.number.toNat ≤ 6 := by cases op <;> decide

/-- The six patterns are disjoint (R72). -/
theorem selects_unique {op op' : Opcode} {w : Word} (h : selects op w = true) (h' : selects op' w = true) : op = op' :=
  Opcode.number_injective ((opField_of_selects h).symm.trans (opField_of_selects h'))

/-- A bit under the mask of the row that selects the word has its fixed value (R68). -/
theorem getLsbD_of_selects {op : Opcode} {w : Word} {k : Nat} (h : selects op w = true) (hk : op.mask.getLsbD k = true) :
    w.getLsbD k = op.fixedBits.getLsbD k := by
  rw [← selects_iff.mp h, BitVec.getLsbD_and, hk, Bool.and_true]

/-- A field under the mask of the row that selects the word has its fixed value (R68). -/
theorem extractLsb'_of_selects {op : Opcode} {w : Word} {start len : Nat} (h : selects op w = true)
    (hk : op.mask.extractLsb' start len = BitVec.allOnes len) : w.extractLsb' start len = op.fixedBits.extractLsb' start len := by
  rw [← selects_iff.mp h, BitVec.extractLsb'_and, hk, BitVec.and_allOnes]

/-! ### Which words decode -/

theorem decode_error_iff {w : Word} : (∃ e, decode w = .error e) ↔ ∀ op, selects op w = false := by
  constructor
  · rintro ⟨e, he⟩ op
    by_contra hs
    rw [Bool.not_eq_false] at hs
    rw [decode_of_selects hs] at he
    cases he
  · intro h
    cases hd : decode w with
    | error e => exact ⟨e, rfl⟩
    | ok i => exact absurd (selects_of_decode hd).1 (by simp [h])

theorem mask_of_decode {w : Word} {i : Instr} (h : decode w = .ok i) : w &&& i.opcode.mask = i.opcode.fixedBits :=
  selects_iff.mp (selects_of_decode h).1

theorem decode_of_mask (op : Opcode) {w : Word} (h : w &&& op.mask = op.fixedBits) : decode w = .ok (operandsOf op w) :=
  decode_of_selects (selects_iff.mpr h)

/-- A reserved OP, or an assigned OP with a reserved bit set, is no row's (R69). -/
theorem not_selects_of_illegal {w : Word}
    (h : (opField w).toNat = 0 ∨ 7 ≤ (opField w).toNat ∨ ∃ op : Opcode, op.number = opField w ∧ selects op w = false) (row : Opcode) :
    selects row w = false := by
  by_contra hs
  rw [Bool.not_eq_false] at hs
  obtain ⟨hlow, hhigh⟩ := row.number_range
  rw [opField_of_selects hs] at h
  rcases h with h | h | ⟨op, hop, hns⟩
  · omega
  · omega
  · obtain rfl := Opcode.number_injective hop
    rw [hs] at hns
    cases hns

/-- Settles O20: the row that selects the word decodes it, and a word that decodes is selected by its command's row. -/
theorem wordSelectsByMask : Obligations.WordSelectsByMask := by
  intro w
  refine ⟨?_, ?_, ?_, ?_, ?_, ?_⟩
  · exact ⟨fun ⟨_, h⟩ => mask_of_decode h, fun h => ⟨_, decode_of_mask .create h⟩⟩
  · exact ⟨fun ⟨_, _, _, h⟩ => mask_of_decode h, fun h => ⟨_, _, _, decode_of_mask .wrbuf h⟩⟩
  · exact ⟨fun ⟨_, _, h⟩ => mask_of_decode h, fun h => ⟨_, _, decode_of_mask .wrbyte h⟩⟩
  · exact ⟨fun ⟨_, _, _, h⟩ => mask_of_decode h, fun h => ⟨_, _, _, decode_of_mask .rdbuf h⟩⟩
  · exact ⟨fun ⟨_, _, _, h⟩ => mask_of_decode h, fun h => ⟨_, _, _, decode_of_mask .peek h⟩⟩
  · exact ⟨fun ⟨_, _, h⟩ => mask_of_decode h, fun h => ⟨_, _, decode_of_mask .consume h⟩⟩

/-- Settles O22: a selected word decodes, an unselected one is rejected, and the OP number tells the rows apart. -/
theorem decodingIsTotal : Obligations.DecodingIsTotal := by
  intro w
  constructor
  · by_cases h : ∃ op, selects op w = true
    · obtain ⟨op, hop⟩ := h
      exact .inl ⟨op, hop, decode_of_selects hop, fun op' hop' => selects_unique hop' hop⟩
    · have hnone : ∀ op, selects op w = false := fun op => Bool.eq_false_iff.mpr (not_exists.mp h op)
      exact .inr ⟨hnone, decode_error_iff.mpr hnone⟩
  · exact fun op op' hne => ⟨fun h => hne (Opcode.number_injective h), fun ⟨h, h'⟩ => hne (selects_unique h h')⟩

/-! ### The fields as arithmetic on the word -/

theorem opField_toNat (w : Word) : (opField w).toNat = w.toNat % 16 := by
  simp [opField]

theorem immField_toNat (w : Word) : (immField w).toNat = w.toNat / 2 ^ 16 := by
  have := w.isLt
  simp only [immField, BitVec.extractLsb'_toNat, Nat.shiftRight_eq_div_pow]
  omega

theorem byteField_toNat (w : Word) : (byteField w).toNat = w.toNat / 2 ^ 16 % 256 := by
  simp [byteField, Nat.shiftRight_eq_div_pow]

theorem getLsbD_eq_div_mod (w : Word) (k : Nat) : w.getLsbD k = (w.toNat / 2 ^ k % 2 == 1) := by
  rw [BitVec.getLsbD, Nat.testBit_eq_decide_div_mod_eq]
  rfl

theorem op_of_selects {op : Opcode} {w : Word} (h : selects op w = true) : w.toNat % 16 = op.number.toNat := by
  rw [← opField_toNat, opField_of_selects h]

/-- RSV is 0 in every word that decodes (R63). -/
theorem rsv_of_selects {op : Opcode} {w : Word} (h : selects op w = true) : w.toNat / 2 ^ 6 % 2 ^ 10 = 0 := by
  have hrsv := congrArg BitVec.toNat (extractLsb'_of_selects (start := 6) (len := 10) h (by cases op <;> decide))
  rw [BitVec.extractLsb'_toNat, Nat.shiftRight_eq_div_pow] at hrsv
  rw [hrsv]
  cases op <;> rfl

/-- The bits above B are 0 in a WRBYTE word (R67). -/
theorem imm_lt_of_selects_wrbyte {w : Word} (h : selects .wrbyte w = true) : w.toNat / 2 ^ 16 < 256 := by
  have hhigh := congrArg BitVec.toNat (extractLsb'_of_selects (start := 24) (len := 8) h (by decide))
  have hfixed : (Opcode.wrbyte.fixedBits.extractLsb' 24 8).toNat = 0 := rfl
  rw [BitVec.extractLsb'_toNat, Nat.shiftRight_eq_div_pow, hfixed] at hhigh
  have := w.isLt
  omega

/-- Settles O21: each operand is its field, and the mask of the row fixes OP, RSV and the bits above B. -/
theorem operandsFromTheirFields : Obligations.OperandsFromTheirFields := by
  intro w i h
  obtain ⟨hs, hi⟩ := selects_of_decode h
  refine ⟨rsv_of_selects hs, ?_⟩
  cases i with
  | create c =>
    obtain rfl := Instr.create.inj hi
    exact ⟨op_of_selects hs, immField_toNat w⟩
  | wrbuf bv dv n =>
    obtain ⟨rfl, rfl, rfl⟩ := Instr.wrbuf.inj hi
    exact ⟨op_of_selects hs, getLsbD_eq_div_mod w 4, getLsbD_eq_div_mod w 5, immField_toNat w⟩
  | wrbyte bv b =>
    obtain ⟨rfl, rfl⟩ := Instr.wrbyte.inj hi
    have hlt := imm_lt_of_selects_wrbyte hs
    exact ⟨op_of_selects hs, getLsbD_eq_div_mod w 4, (byteField_toNat w).trans (Nat.mod_eq_of_lt hlt), hlt⟩
  | rdbuf bv dv n =>
    obtain ⟨rfl, rfl, rfl⟩ := Instr.rdbuf.inj hi
    exact ⟨op_of_selects hs, getLsbD_eq_div_mod w 4, getLsbD_eq_div_mod w 5, immField_toNat w⟩
  | peek bv dv n =>
    obtain ⟨rfl, rfl, rfl⟩ := Instr.peek.inj hi
    exact ⟨op_of_selects hs, getLsbD_eq_div_mod w 4, getLsbD_eq_div_mod w 5, immField_toNat w⟩
  | consume bv n =>
    obtain ⟨rfl, rfl⟩ := Instr.consume.inj hi
    exact ⟨op_of_selects hs, getLsbD_eq_div_mod w 4, immField_toNat w⟩

/-! ### The handle and the payload of a command -/

/-- BV of a command that takes a buffer handle (R65). -/
def Instr.handle : Instr → Option Bool
  | .create _ => none
  | .wrbuf bv _ _ => some bv
  | .wrbyte bv _ => some bv
  | .rdbuf bv _ _ => some bv
  | .peek bv _ _ => some bv
  | .consume bv _ => some bv

/-- R70 in its own words: a WRBUF with DV = 1 and LEN bytes, or any other word without payload. -/
theorem Transaction.wellFormed_iff {t : Transaction} :
    t.wellFormed = true ↔ (∃ bv len, decode t.cmd = .ok (.wrbuf bv true len) ∧ t.wdata.length = len) ∨
      ((¬ ∃ bv len, decode t.cmd = .ok (.wrbuf bv true len)) ∧ t.wdata = []) := by
  unfold Transaction.wellFormed
  cases decode t.cmd with
  | error e => simp
  | ok i =>
    cases i with
    | wrbuf bv dv n =>
      cases dv with
      | true => simpa [Instr.payloadLen] using eq_comm
      | false => simp [Instr.payloadLen]
    | create c => simp [Instr.payloadLen]
    | wrbyte bv b => simp [Instr.payloadLen]
    | rdbuf bv dv n => simp [Instr.payloadLen]
    | peek bv dv n => simp [Instr.payloadLen]
    | consume bv n => simp [Instr.payloadLen]

end Sys2Proof

namespace Sys2Proof.Machine

/-! ### Illegal words -/

theorem runWord_of_ok {w : Word} {i : Instr} (h : decode w = .ok i) (s : State) : runWord w s = exec i s := by
  simp [runWord, h]

theorem runWord_of_error {w : Word} {e : DecodeReject} (h : decode w = .error e) (s : State) : runWord w s = illegalCommand s := by
  simp [runWord, h]

/-- Settles O23: no row selects the word, so the decoder rejects it. -/
theorem illegalWordCompletes : Obligations.IllegalWordCompletes := by
  intro w s hw hp
  have hnone := not_selects_of_illegal (w := w) (by
    simpa [opField_toNat, ← BitVec.toNat_inj, selects] using hw)
  obtain ⟨e, he⟩ := decode_error_iff.mpr hnone
  rw [runWord_of_error he]
  exact withPayload_eq_next.mpr ⟨by simp [hp], rfl⟩

/-! ### The buffer handle -/

/-- The handle is the first check of each of the five commands (R105). -/
theorem bodyOf_of_invalid_handle {i : Instr} {s : State} {bv : Bool} (hi : i.handle = some bv) (hv : s.handleValid bv = false) :
    bodyOf i s = .ok (s.raise .invalidArgument) := by
  cases i with
  | create c => cases hi
  | wrbuf bv' dv n =>
    obtain rfl := Option.some.inj hi
    simp [bodyOf, wrbufBody, hv]
  | wrbyte bv' b =>
    obtain rfl := Option.some.inj hi
    simp [bodyOf, wrbyteBody, hv]
  | rdbuf bv' dv n =>
    obtain rfl := Option.some.inj hi
    simp [bodyOf, rdbufBody, hv]
  | peek bv' dv n =>
    obtain rfl := Option.some.inj hi
    simp [bodyOf, peekBody, hv]
  | consume bv' n =>
    obtain rfl := Option.some.inj hi
    simp [bodyOf, consumeBody, hv]

/-- Settles O44: the handle is the first check of each command that takes one, and the mask of CREATE's row fixes BV. -/
theorem invalidHandleFails : Obligations.InvalidHandleFails := by
  refine ⟨fun s i bv hp hi => ⟨State.handleValid_iff, fun hinvalid => ?_⟩, fun w c h => ?_⟩
  · have hhandle : i.handle = some bv := by
      rcases hi with ⟨dv, n, rfl | rfl | rfl⟩ | ⟨b, rfl⟩ | ⟨n, rfl⟩ <;> rfl
    have hv : s.handleValid bv = false := Bool.eq_false_iff.mpr (mt State.handleValid_iff.mp hinvalid)
    exact exec_next_of_body hp (bodyOf_of_invalid_handle hhandle hv)
  · exact getLsbD_of_selects (op := .create) (selects_of_decode h).1 rfl

/-! ### Ill-formed transactions -/

theorem illegalCommand_refused {s : State} : illegalCommand s = .refused .payloadMismatch ↔ s.wdata ≠ [] :=
  (withPayload_eq_refused fun _ h => by cases h).trans (by simp)

/-- A word is refused exactly when its payload has not the length R70 asks for. -/
theorem runWord_refused {w : Word} {s : State} :
    runWord w s = .refused .payloadMismatch ↔ Transaction.wellFormed ⟨w, s.wdata⟩ = false := by
  cases hd : decode w with
  | ok i => simp [runWord_of_ok hd, exec_refused, Transaction.wellFormed, hd]
  | error e =>
    simp [runWord_of_error hd, illegalCommand_refused, Transaction.wellFormed, hd]

theorem completion_refused {a : Nat} {o : Host.Outcome State Fault Refusal} {r : Refusal} :
    completion a o = .refused r ↔ o = .refused r := by
  cases o <;> simp [completion]

theorem step_issue {s : State} {a : Nat} {es : List Event} {t : Transaction} (hs : s.schedule = .issue a :: es)
    (ht : s.fetch a = some t) : step s = completion a (runWord t.cmd ((s.dropEvent es).present a t)) := by
  simp [step, hs, ht]

/-- Settles O5: the step refuses what its word refuses, and the word refuses exactly the ill-formed payloads. -/
theorem illFormedTransactionRefused : Obligations.IllFormedTransactionRefused := by
  intro s a es t hs ht
  rw [step_issue hs ht, completion_refused, runWord_refused, ← Transaction.wellFormed_iff, Bool.not_eq_true]
  rfl

end Sys2Proof.Machine
end

section
/-! PROOFS. The configuration command CREATE (40_create.md). -/

namespace Sys2Proof.Machine

/-! ### CREATE on an unconfigured block -/

theorem exec_create_of_no_payload {s : State} (hp : s.wdata = []) (c : Nat) : exec (.create c) s = .next (createBody c s) :=
  execCreate_eq c s hp

theorem createBody_of_capacity_exceeded {s : State} {c : Nat} (hcfg : s.cfg = false) (hc : Config.maxCap < c) :
    createBody c s = s.raise .capacityExceeded := by
  simp [createBody, hcfg, hc]

theorem createBody_of_storage_draw_false {s : State} {c : Nat} (hcfg : s.cfg = false) (hc : c ≤ Config.maxCap)
    (hd : s.nextDraw = false) : createBody c s = s.afterDraw.raise .allocationFailed := by
  simp [createBody, hcfg, hc.not_gt, hd]

theorem createBody_of_control_draw_false {s : State} {c : Nat} (hcfg : s.cfg = false) (hc : c ≤ Config.maxCap)
    (hd : s.nextDraw = true) (hd' : s.afterDraw.nextDraw = false) :
    createBody c s = s.afterDraw.afterDraw.raise .allocationFailed := by
  simp [createBody, hcfg, hc.not_gt, hd, hd']

theorem createBody_of_draws_true {s : State} {c : Nat} (hcfg : s.cfg = false) (hc : c ≤ Config.maxCap)
    (hd : s.nextDraw = true) (hd' : s.afterDraw.nextDraw = true) :
    createBody c s = (s.afterDraw.afterDraw.commitCreate (capOf c)).finish [] := by
  simp [createBody, hcfg, hc.not_gt, hd, hd']

/-- Settles O26: the capacity is checked before the first draw. -/
theorem createCapacityExceeded : Obligations.CreateCapacityExceeded := by
  intro s c hp hcfg hc
  rw [exec_create_of_no_payload hp, createBody_of_capacity_exceeded hcfg hc]
  rfl

/-- Settles O27: the storage draw is made first, and the control block's draw only when it was true. -/
theorem createAllocationFailed : Obligations.CreateAllocationFailed := by
  intro s c hp hcfg hc
  constructor
  · intro hd
    rw [exec_create_of_no_payload hp, createBody_of_storage_draw_false hcfg hc hd]
    rfl
  · intro hd hd'
    rw [exec_create_of_no_payload hp, createBody_of_control_draw_false hcfg hc hd hd']
    rfl

/-! ### Transfers that do not fit -/

theorem wrbufBody_of_free_lt {s : State} {bv : Bool} {n : Nat} (hv : s.handleValid bv = true) (hn : 0 < n) (hfull : s.free < n) :
    wrbufBody bv true n s = .ok (s.raise .insufficientSpace) := by
  simp [wrbufBody, hv, hn.ne', hfull]

theorem wrbyteBody_of_free_zero {s : State} {bv : Bool} (hv : s.handleValid bv = true) (hfull : s.free = 0) (b : Byte) :
    wrbyteBody bv b s = .ok (s.raise .insufficientSpace) := by
  simp [wrbyteBody, hv, hfull]

theorem rdbufBody_of_used_lt {s : State} {bv : Bool} {n : Nat} (hv : s.handleValid bv = true) (hn : 0 < n) (hshort : s.used < n) :
    rdbufBody bv true n s = .ok (s.raise .insufficientData) := by
  simp [rdbufBody, hv, hn.ne', hshort]

theorem peekBody_of_used_lt {s : State} {bv : Bool} {n : Nat} (hv : s.handleValid bv = true) (hn : 0 < n) (hshort : s.used < n) :
    peekBody bv true n s = .ok (s.raise .insufficientData) := by
  simp [peekBody, hv, hn.ne', hshort]

theorem consumeBody_of_used_lt {s : State} {bv : Bool} {n : Nat} (hv : s.handleValid bv = true) (hn : 0 < n) (hshort : s.used < n) :
    consumeBody bv n s = .ok (s.raise .insufficientData) := by
  simp [consumeBody, hv, hn.ne', hshort]

/-! ### Capacity zero -/

theorem State.size_of_cap_zero {s : State} (hcap : s.cap = 0#10) : s.size = 1 := by
  simp [State.size, hcap]

theorem State.used_free_of_cap_zero {s : State} (hcap : s.cap = 0#10) : s.used = 0 ∧ s.free = 0 := by
  have hsum : s.used + s.free = 0 := by simpa [hcap] using s.used_add_free
  exact Nat.add_eq_zero_iff.mp hsum

/-- The one slot of a block with CAP = 0 is slot 0, where an index below SIZE stands. -/
theorem State.index_eq_zero_of_cap_zero {s : State} {i : Index} (hcap : s.cap = 0#10) (hi : i.toNat < s.size) : i = 0#10 := by
  rw [State.size_of_cap_zero hcap] at hi
  exact BitVec.eq_of_toNat_eq (Nat.lt_one_iff.mp hi)

/-- CREATE #0 takes the success path: a capacity of zero is accepted (R81). -/
theorem exec_create_zero {s : State} (hp : s.wdata = []) (hcfg : s.cfg = false) (hd : s.nextDraw = true)
    (hd' : s.afterDraw.nextDraw = true) :
    ∃ t, exec (.create 0) s = .next t ∧ t.cap = 0#10 ∧ t.size = 1 ∧ t.cfg = true ∧ t.status = 0#3 := by
  rw [exec_create_of_no_payload hp, createBody_of_draws_true hcfg (Nat.zero_le _) hd hd']
  exact ⟨_, rfl, rfl, rfl, rfl, rfl⟩

/-- Settles O29: with CAP = 0 there is one slot, so both indices stand at 0, and USED and FREE, which add up to CAP, are 0: no
transfer of non-zero length fits. -/
theorem capacityZero : Obligations.CapacityZero := by
  refine ⟨fun s => exec_create_zero, fun s hinv hcfg hcap => ?_⟩
  have hv : s.handleValid true = true := State.handleValid_iff.mpr ⟨rfl, hcfg⟩
  obtain ⟨hused, hfree⟩ := State.used_free_of_cap_zero hcap
  obtain ⟨hempty, hfull⟩ := State.empty_full_of_cap_zero hinv.headLegal hinv.tailLegal hcap
  refine ⟨State.index_eq_zero_of_cap_zero hcap hinv.headLegal, State.index_eq_zero_of_cap_zero hcap hinv.tailLegal, hempty, hfull,
    hused, hfree, fun n hn hp => ?_, fun hp => ⟨fun b => ?_, fun n hn => ?_⟩⟩
  · exact exec_next_of_body hp (wrbufBody_of_free_lt hv hn (hfree.trans_lt hn))
  · exact exec_next_of_body (congrArg List.length hp) (wrbyteBody_of_free_zero hv hfree b)
  · have hshort : s.used < n := hused.trans_lt hn
    have hlen : s.wdata.length = 0 := congrArg List.length hp
    exact ⟨exec_next_of_body hlen (rdbufBody_of_used_lt hv hn hshort), exec_next_of_body hlen (peekBody_of_used_lt hv hn hshort),
      exec_next_of_body hlen (consumeBody_of_used_lt hv hn hshort)⟩

end Sys2Proof.Machine
end

section
/-! PROOFS. The write commands WRBUF and WRBYTE (41_write.md). -/

namespace Sys2Proof.Machine

/-! ### The exact fit -/

/-- Every storage address is that of one of the SIZE bytes from `base` on. -/
theorem exists_slotAt_eq {base size a : Nat} (hb : base ≤ size) (ha : a < size) : ∃ i < size, slotAt base size i = a := by
  refine ⟨(size - base + a) % size, Nat.mod_lt _ (Nat.zero_lt_of_lt ha), ?_⟩
  have hmod : slotAt base size ((size - base + a) % size) = slotAt base size (size - base + a) := by simp [slotAt]
  rw [hmod, slotAt_wrap hb ha]

/-- A full buffer has one slot outside its live region, the one at HEAD: USED = CAP slots from TAIL on are live, and HEAD is the
next of the CAP + 1 (R28, R84). -/
theorem State.outside_live_iff_head {s : State} (hh : s.head.toNat < s.size) (ht : s.tail.toNat < s.size)
    (hfull : s.used = s.cap.toNat) {a : Nat} (ha : a < s.size) :
    (∀ i, i < s.used → a ≠ slotAt s.tail.toNat s.size i) ↔ a = s.head.toNat := by
  have hsize : s.size = s.used + 1 := by rw [hfull]; rfl
  rw [← State.slotAt_used hh ht]
  constructor
  · intro hout
    obtain ⟨i, hi, rfl⟩ := exists_slotAt_eq ht.le ha
    have hlive : ¬ i < s.used := fun hlt => hout i hlt rfl
    rw [show i = s.used by omega]
  · rintro rfl i hi heq
    exact hi.ne' (slotAt_injective s.used_lt_size (hi.trans s.used_lt_size) heq)

/-- A WRBUF that passes its checks completes with OK and adds LEN to USED (R83). -/
theorem State.Inv.exec_wrbuf_of_fits {s : State} (h : s.Inv) (hc : s.cfg = true) {n : Nat} (hp : s.wdata.length = n) (hn : 0 < n)
    (hfit : n ≤ s.free) :
    ∃ t, exec (.wrbuf true true n) s = .next t ∧ t.status = 0#3 ∧ t.cap = s.cap ∧ t.used = s.used + n := by
  obtain ⟨m, hm, -⟩ := wrbufAppends s n hc h.capLegal hp hn hfit
  exact ⟨_, hm, rfl, rfl, State.used_of_head h.headLegal h.tailLegal hfit rfl rfl rfl⟩

/-- Settles O34: the write adds FREE to USED, which makes CAP, and a full buffer's one slot outside is at HEAD. -/
theorem exactFit : Obligations.ExactFit := by
  intro s len h hc hp hpos hlen
  obtain ⟨t, hexec, hstatus, hcap, hadded⟩ := h.exec_wrbuf_of_fits hc hp hpos hlen.le
  have ht : t.Inv := exec_keeps_inv h hexec
  have hused : t.used = t.cap.toNat := by rw [hadded, hlen, s.used_add_free, hcap]
  have hfull : t.full = true := State.full_iff.mpr hused
  exact ⟨t, hexec, hstatus, hused, hcap, State.full_iff_free.mp hfull, hfull,
    fun _ => State.outside_live_iff_head ht.headLegal ht.tailLegal hused⟩

/-! ### WRBYTE and WRBUF #1 -/

theorem wrbyteBody_of_valid {s : State} {bv : Bool} (hv : s.handleValid bv = true) (hfit : s.free ≠ 0)
    (hle : s.head.toNat ≤ Config.maxCap) (b : Byte) :
    wrbyteBody bv b s = .ok ((s.commitWrite (s.stor.put s.head.toNat b) (advance s.head 1 s.size)).finish []) := by
  simp [wrbyteBody, hv, hfit, memWrite, hle]

/-- A WRBUF #1 that fits writes its one byte at HEAD (R88). -/
theorem wrbufBody_one_of_valid {s : State} {bv : Bool} {b : Byte} (hv : s.handleValid bv = true) (hfit : s.free ≠ 0)
    (hh : s.head.toNat < s.size) (hle : s.head.toNat ≤ Config.maxCap) (hp : s.wdata = [b]) :
    wrbufBody bv true 1 s = .ok ((s.commitWrite (s.stor.put s.head.toNat b) (advance s.head 1 s.size)).finish []) := by
  rw [wrbufBody_of_valid hv Nat.one_pos (Nat.one_le_iff_ne_zero.mpr hfit), hp, writeFrom_one b hh hle]
  rfl

/-- The two bodies make the same checks in the same order, and the write loop on one byte is the write of that byte (R88). -/
theorem State.Inv.wrbyteBody_wrbufBody_one {s : State} (h : s.Inv) (bv : Bool) (b : Byte) :
    ∃ t : State, wrbyteBody bv b (s.putWdata []) = .ok (t.putWdata []) ∧
      wrbufBody bv true 1 (s.putWdata [b]) = .ok (t.putWdata [b]) := by
  cases hv : s.handleValid bv
  · exact ⟨s.raise .invalidArgument, bodyOf_of_invalid_handle (i := .wrbyte bv b) (s := s.putWdata []) rfl hv,
      bodyOf_of_invalid_handle (i := .wrbuf bv true 1) (s := s.putWdata [b]) rfl hv⟩
  · by_cases hfree : s.free = 0
    · exact ⟨s.raise .insufficientSpace, wrbyteBody_of_free_zero (s := s.putWdata []) hv hfree b,
        wrbufBody_of_free_lt (s := s.putWdata [b]) hv Nat.one_pos (hfree.trans_lt Nat.one_pos)⟩
    · have hle : s.head.toNat ≤ Config.maxCap := Nat.le_of_lt_succ (h.headLegal.trans_le (State.size_le_of_cap h.capLegal))
      exact ⟨(s.commitWrite (s.stor.put s.head.toNat b) (advance s.head 1 s.size)).finish [],
        wrbyteBody_of_valid (s := s.putWdata []) hv hfree hle b,
        wrbufBody_one_of_valid (s := s.putWdata [b]) hv hfree h.headLegal hle rfl⟩

/-- Settles O35: each payload is the one its command asks for, so both commands answer what their bodies answer. -/
theorem wrbyteIsWrbufOfOneByte : Obligations.WrbyteIsWrbufOfOneByte := by
  intro s bv b h
  obtain ⟨t, hbyte, hbuf⟩ := h.wrbyteBody_wrbufBody_one bv b
  exact ⟨t, exec_next_of_body rfl hbyte, exec_next_of_body rfl hbuf⟩

/-! ### What a failure leaves unchanged -/

/-- The state a failure leaves (R85, R95). -/
theorem Fails.eq_with_status {i : Instr} {s t : State} (h : Fails s i t) :
    t = { s with status := t.status, rdata := [], allocInput := t.allocInput, allocDrawn := t.allocDrawn } := by
  cases h <;> rfl

theorem Fails.keeps_draws {i : Instr} {s t : State} (h : Fails s i t) (hi : ¬ ∃ c, i = .create c) :
    t.allocInput = s.allocInput ∧ t.allocDrawn = s.allocDrawn := by
  cases h with
  | raised => exact ⟨rfl, rfl⟩
  | storageDraw => exact absurd ⟨_, rfl⟩ hi
  | controlDraw => exact absurd ⟨_, rfl⟩ hi

theorem Succeeds.keeps_draws {i : Instr} {s t : State} (h : Succeeds s i t) (hi : ¬ ∃ c, i = .create c) :
    t.allocInput = s.allocInput ∧ t.allocDrawn = s.allocDrawn := by
  cases h with
  | create => exact absurd ⟨_, rfl⟩ hi
  | wrbuf => exact ⟨rfl, rfl⟩
  | wrbyte => exact ⟨rfl, rfl⟩
  | rdbuf => exact ⟨rfl, rfl⟩
  | peek => exact ⟨rfl, rfl⟩
  | consume => exact ⟨rfl, rfl⟩

/-- CREATE alone makes draws (R12, R77). -/
theorem exec_keeps_draws {i : Instr} {s t : State} (h : exec i s = .next t) (hi : ¬ ∃ c, i = .create c) :
    t.allocInput = s.allocInput ∧ t.allocDrawn = s.allocDrawn :=
  (exec_fails_or_succeeds h).elim (Fails.keeps_draws · hi) (Succeeds.keeps_draws · hi)

/-- Settles O49: a word that completes is a command that fails or succeeds, or an illegal word, which raises its status. -/
theorem failureChangesStatusAlone : Obligations.FailureChangesStatusAlone := by
  intro s t w h
  refine ⟨fun hne => ?_, fun hw => ?_, runWord_rdata_ne_nil h⟩
  · rcases runWord_next h with ⟨i, -, hi⟩ | ⟨e, -, -, rfl⟩
    · exact ((exec_fails_or_succeeds hi).resolve_right fun hs => hne hs.status_eq_zero).eq_with_status
    · rfl
  · rcases runWord_next h with ⟨i, hd, hi⟩ | ⟨e, -, -, rfl⟩
    · exact exec_keeps_draws hi fun ⟨c, hc⟩ => hw ⟨c, hc ▸ hd⟩
    · exact ⟨rfl, rfl⟩

end Sys2Proof.Machine
end

section
/-! SUPPORT. The block as the abstract queue (20_memory.md R45): the body of each command does to the queue, the status and the bytes
returned what the command does on the abstract queue. -/

namespace Sys2Proof.Machine

/-! ### The bytes of Q -/

theorem State.Inv.length_queueBytes {s : State} (h : s.Inv) : s.queueBytes.length = s.used := by
  obtain ⟨q, hq, hlen⟩ := h.queue_ok
  rw [State.queueBytes_eq hq, hlen]

theorem State.Inv.queueBytes_of_used_zero {s : State} (h : s.Inv) (hu : s.used = 0) : s.queueBytes = [] :=
  List.length_eq_zero_iff.mp (h.length_queueBytes.trans hu)

/-- A read of `n` held bytes returns the first `n` of Q and leaves the rest (R90 to R92). -/
theorem State.Inv.queueBytes_split {s : State} (h : s.Inv) {n : Nat} (hn : n ≤ s.used) :
    readFrom s.stor s.tail.toNat s.size 0 n = .ok (s.queueBytes.take n) ∧
    (s.commitTail (advance s.tail n s.size)).queueBytes = s.queueBytes.drop n := by
  obtain ⟨q, hq, -⟩ := h.queue_ok
  obtain ⟨hread, hrest⟩ := h.queue_split hn hq
  rw [State.queueBytes_eq hq]
  exact ⟨hread, State.queueBytes_eq hrest⟩

/-! ### The abstract queue of a state -/

@[simp] theorem State.fifo_cfg (s : State) : s.fifo.cfg = s.cfg := rfl
@[simp] theorem State.fifo_cap (s : State) : s.fifo.cap = s.cap.toNat := rfl
@[simp] theorem State.fifo_bytes (s : State) : s.fifo.bytes = s.queueBytes := rfl
@[simp] theorem State.raise_fifo (s : State) (S : Status) : (s.raise S).fifo = s.fifo := rfl
@[simp] theorem State.finish_fifo (s : State) (d : List Byte) : (s.finish d).fifo = s.fifo := rfl
@[simp] theorem State.afterDraw_fifo (s : State) : s.afterDraw.fifo = s.fifo := rfl

theorem State.Inv.used_eq {s : State} (h : s.Inv) : s.used = s.fifo.bytes.length := h.length_queueBytes.symm

theorem State.Inv.free_eq {s : State} (h : s.Inv) : s.free = s.fifo.cap - s.fifo.bytes.length := by
  have hsum := s.used_add_free
  rw [← h.used_eq, State.fifo_cap]
  omega

theorem State.Inv.commitCreate_fifo {s : State} (h : s.Inv) (hc : s.cfg = false) {c : Nat} (hn : c ≤ Config.maxCap) :
    (s.commitCreate (capOf c)).fifo = ⟨true, c, []⟩ := by
  have hused : (s.commitCreate (capOf c)).used = 0 := by simp [State.used]
  rw [State.fifo, (h.commitCreate hc hn).queueBytes_of_used_zero hused, State.commitCreate_cap, capOf_toNat hn]
  rfl

theorem State.Inv.commitWrite_fifo {s : State} (h : s.Inv) (hc : s.cfg = true) {w : List Byte} {m : Memory} (hf : w.length ≤ s.free)
    (hw : writeFrom s.head.toNat s.size 0 w s.stor = .ok m) :
    (s.commitWrite m (advance s.head w.length s.size)).fifo = { s.fifo with bytes := s.queueBytes ++ w } := by
  rw [State.fifo, h.queueBytes_commitWrite hc hf hw]
  rfl

theorem State.Inv.commitTail_fifo {s : State} (h : s.Inv) {n : Nat} (hn : n ≤ s.used) :
    (s.commitTail (advance s.tail n s.size)).fifo = { s.fifo with bytes := s.queueBytes.drop n } := by
  rw [State.fifo, (h.queueBytes_split hn).2]
  rfl

/-! ### Each command on the abstract queue -/

/-- A completed command's result, as the abstract queue gives it. -/
def State.result (t : State) : FifoResult := ⟨t.fifo, t.status, t.rdata⟩

theorem State.raise_result (s : State) (S : Status) : (s.raise S).result = ⟨s.fifo, S.code, []⟩ := rfl

theorem State.finish_result (s : State) (d : List Byte) : (s.finish d).result = ⟨s.fifo, 0#3, d⟩ := rfl

theorem State.handleValid_eq_false {s : State} {bv : Bool} : s.handleValid bv = false ↔ bv = false ∨ s.cfg = false :=
  Bool.and_eq_false_iff

/-- The bytes of Q and `n` more are above CAP exactly when `n` is above FREE. -/
theorem State.Inv.cap_lt_iff {s : State} (h : s.Inv) (n : Nat) : s.cap.toNat < s.queueBytes.length + n ↔ s.free < n := by
  rw [h.length_queueBytes, ← s.used_add_free, Nat.add_lt_add_iff_left]

theorem State.Inv.createBody_result {s : State} (h : s.Inv) (c : Nat) :
    (createBody c s).result = s.fifo.run s.wdata (s.nextDraw && s.afterDraw.nextDraw) (.create c) := by
  rcases createBody_cases c s with ⟨hcfg, e⟩ | ⟨hcfg, hc, e⟩ | ⟨hcfg, hc, hd, e⟩ | ⟨hcfg, hc, hd, hd', e⟩ |
    ⟨hcfg, hc, hd, hd', e⟩ <;> rw [e]
  · simp [Fifo.run, State.raise_result, hcfg, Status.code]
  · simp [Fifo.run, State.raise_result, hcfg, hc, Status.code]
  · simp [Fifo.run, State.raise_result, hcfg, hc.not_gt, hd, Status.code]
  · simp [Fifo.run, State.raise_result, hcfg, hc.not_gt, hd, hd', Status.code]
  · simp [Fifo.run, State.finish_result, hcfg, hc.not_gt, hd, hd', h.afterDraw.afterDraw.commitCreate_fifo hcfg hc]

theorem State.Inv.wrbufBody_result {s t : State} (h : s.Inv) {bv dv : Bool} {n : Nat} (g : Bool)
    (hp : s.wdata.length = (Instr.wrbuf bv dv n).payloadLen) (ht : wrbufBody bv dv n s = .ok t) :
    t.result = s.fifo.run s.wdata g (.wrbuf bv dv n) := by
  rcases wrbufBody_cases ht with ⟨harg, rfl⟩ | ⟨hv, rfl, hn, hfull, rfl⟩ | ⟨hv, rfl, hn, hfit, m, hm, rfl⟩
  · rw [State.handleValid_eq_false] at harg
    rw [Fifo.run, if_pos (by simpa [or_assoc] using harg)]
    rfl
  · obtain ⟨rfl, hcfg⟩ := State.handleValid_iff.mp hv
    simp [Fifo.run, State.raise_result, hcfg, hn, h.cap_lt_iff, hfull, Status.code]
  · obtain ⟨rfl, hcfg⟩ := State.handleValid_iff.mp hv
    obtain rfl : s.wdata.length = n := hp
    simp [Fifo.run, State.finish_result, hcfg, hn, h.cap_lt_iff, hfit.not_gt, h.commitWrite_fifo hcfg hfit hm]

theorem State.Inv.wrbyteBody_result {s t : State} (h : s.Inv) {bv : Bool} {b : Byte} (g : Bool) (ht : wrbyteBody bv b s = .ok t) :
    t.result = s.fifo.run s.wdata g (.wrbyte bv b) := by
  rcases wrbyteBody_cases ht with ⟨hv, rfl⟩ | ⟨hv, hfull, rfl⟩ | ⟨hv, hfit, hle, rfl⟩
  · rw [State.handleValid_eq_false] at hv
    rw [Fifo.run, if_pos (by simpa using hv)]
    rfl
  · obtain ⟨rfl, hcfg⟩ := State.handleValid_iff.mp hv
    simp [Fifo.run, State.raise_result, hcfg, h.cap_lt_iff, hfull, Status.code]
  · obtain ⟨rfl, hcfg⟩ := State.handleValid_iff.mp hv
    have hpos : 1 ≤ s.free := Nat.one_le_iff_ne_zero.mpr hfit
    have hfifo := h.commitWrite_fifo (w := [b]) hcfg hpos (writeFrom_one b h.headLegal hle)
    simp only [List.length_singleton] at hfifo
    simp [Fifo.run, State.finish_result, hcfg, h.cap_lt_iff, hfit, hfifo]

theorem State.Inv.rdbufBody_result {s t : State} (h : s.Inv) {bv dv : Bool} {n : Nat} (g : Bool) (ht : rdbufBody bv dv n s = .ok t) :
    t.result = s.fifo.run s.wdata g (.rdbuf bv dv n) := by
  rcases rdbufBody_cases ht with ⟨harg, rfl⟩ | ⟨hv, rfl, hn, hshort, rfl⟩ | ⟨hv, rfl, hn, hheld, vs, hvs, rfl⟩
  · rw [State.handleValid_eq_false] at harg
    rw [Fifo.run, if_pos (by simpa [or_assoc] using harg)]
    rfl
  · obtain ⟨rfl, hcfg⟩ := State.handleValid_iff.mp hv
    simp [Fifo.run, State.raise_result, hcfg, hn, h.length_queueBytes, hshort, Status.code]
  · obtain ⟨rfl, hcfg⟩ := State.handleValid_iff.mp hv
    obtain rfl : vs = s.queueBytes.take n := Except.ok.inj (hvs.symm.trans (h.queueBytes_split hheld).1)
    simp [Fifo.run, State.finish_result, hcfg, hn, h.length_queueBytes, hheld.not_gt, h.commitTail_fifo hheld]

theorem State.Inv.peekBody_result {s t : State} (h : s.Inv) {bv dv : Bool} {n : Nat} (g : Bool) (ht : peekBody bv dv n s = .ok t) :
    t.result = s.fifo.run s.wdata g (.peek bv dv n) := by
  rcases peekBody_cases ht with ⟨harg, rfl⟩ | ⟨hv, rfl, hn, hshort, rfl⟩ | ⟨hv, rfl, hn, hheld, vs, hvs, rfl⟩
  · rw [State.handleValid_eq_false] at harg
    rw [Fifo.run, if_pos (by simpa [or_assoc] using harg)]
    rfl
  · obtain ⟨rfl, hcfg⟩ := State.handleValid_iff.mp hv
    simp [Fifo.run, State.raise_result, hcfg, hn, h.length_queueBytes, hshort, Status.code]
  · obtain ⟨rfl, hcfg⟩ := State.handleValid_iff.mp hv
    obtain rfl : vs = s.queueBytes.take n := Except.ok.inj (hvs.symm.trans (h.queueBytes_split hheld).1)
    simp [Fifo.run, State.finish_result, hcfg, hn, h.length_queueBytes, hheld.not_gt]

theorem State.Inv.consumeBody_result {s t : State} (h : s.Inv) {bv : Bool} {n : Nat} (g : Bool) (ht : consumeBody bv n s = .ok t) :
    t.result = s.fifo.run s.wdata g (.consume bv n) := by
  rcases consumeBody_cases ht with ⟨harg, rfl⟩ | ⟨hv, hn, hshort, rfl⟩ | ⟨hv, hn, hheld, rfl⟩
  · rw [State.handleValid_eq_false] at harg
    rw [Fifo.run, if_pos (by simpa using harg)]
    rfl
  · obtain ⟨rfl, hcfg⟩ := State.handleValid_iff.mp hv
    simp [Fifo.run, State.raise_result, hcfg, hn, h.length_queueBytes, hshort, Status.code]
  · obtain ⟨rfl, hcfg⟩ := State.handleValid_iff.mp hv
    simp [Fifo.run, State.finish_result, hcfg, hn, h.length_queueBytes, hheld.not_gt, h.commitTail_fifo hheld]

/-- Under the invariant a command that completes does what it does on the abstract queue. -/
theorem State.Inv.exec_result {s t : State} (h : s.Inv) {i : Instr} (ht : exec i s = .next t) :
    t.result = s.fifo.run s.wdata (s.nextDraw && s.afterDraw.nextDraw) i := by
  obtain ⟨hp, hb⟩ := exec_next ht
  cases i with
  | create c =>
    obtain rfl : createBody c s = t := Except.ok.inj hb
    exact h.createBody_result c
  | wrbuf bv dv n => exact h.wrbufBody_result _ hp hb
  | wrbyte bv b => exact h.wrbyteBody_result _ hb
  | rdbuf bv dv n => exact h.rdbufBody_result _ hb
  | peek bv dv n => exact h.peekBody_result _ hb
  | consume bv n => exact h.consumeBody_result _ hb

/-- Under the invariant a command whose payload has the right length completes (R97). -/
theorem State.Inv.exec_completes {s : State} (h : s.Inv) {i : Instr} (hp : s.wdata.length = i.payloadLen) :
    ∃ t, exec i s = .next t := by
  cases hb : bodyOf i s with
  | ok t => exact ⟨t, exec_next_of_body hp hb⟩
  | error f => exact absurd hb (h.bodyOf_ne_fault i f)

end Sys2Proof.Machine
end

section
/-! PROOFS. The read commands RDBUF, PEEK and CONSUME (42_read.md). -/

namespace Sys2Proof

/-- A write transaction in its canonical form is a WRBUF of its payload or a WRBYTE of its one byte (R74). -/
theorem Transaction.writes_eq_some {t : Transaction} {w : List Byte} (h : t.writes = some w) :
    (decode t.cmd = .ok (.wrbuf true true w.length) ∧ t.wdata = w ∧ w ≠ []) ∨
    ∃ b, decode t.cmd = .ok (.wrbyte true b) ∧ t.wdata = [] ∧ w = [b] := by
  unfold Transaction.writes at h
  split at h
  · split at h
    · rename_i hd hn
      obtain rfl := Option.some.inj h
      obtain ⟨rfl, hne⟩ := hn
      exact .inl ⟨hd, rfl, List.ne_nil_of_length_pos (Nat.pos_of_ne_zero hne)⟩
    · cases h
  · split at h
    · exact .inr ⟨_, by assumption, by assumption, (Option.some.inj h).symm⟩
    · cases h
  · cases h

end Sys2Proof

namespace Sys2Proof.Machine

/-! ### FIFO ordering -/

/-- Under the invariant a transaction that decodes and has its payload completes, keeps the invariant, and does what its command
does on the abstract queue. -/
theorem State.Inv.transact_completes {s : State} (h : s.Inv) {t : Transaction} {i : Instr} (hd : decode t.cmd = .ok i)
    (hp : t.wdata.length = i.payloadLen) :
    ∃ s', transact t s = .next s' ∧ s'.Inv ∧ s'.result = s.fifo.run t.wdata (s.nextDraw && s.afterDraw.nextDraw) i := by
  have hport : (s.putWdata t.wdata).Inv := h.of_block rfl rfl rfl rfl rfl rfl rfl
  obtain ⟨s', hs'⟩ := hport.exec_completes hp
  exact ⟨s', (runWord_of_ok hd _).trans hs', exec_keeps_inv hport hs', hport.exec_result hs'⟩

/-- A write that fits puts its bytes at the end of Q and changes nothing else of the queue (R83, R86). -/
theorem State.Inv.transact_write {s : State} (h : s.Inv) (hc : s.cfg = true) {t : Transaction} {w : List Byte}
    (ht : t.writes = some w) (hfit : w.length ≤ s.free) :
    ∃ s', transact t s = .next s' ∧ s'.Inv ∧ s'.fifo = { s.fifo with bytes := s.queueBytes ++ w } := by
  rcases Transaction.writes_eq_some ht with ⟨hd, rfl, hne⟩ | ⟨b, hd, hp, rfl⟩
  · obtain ⟨s', hs', hinv, hres⟩ := h.transact_completes hd rfl
    refine ⟨s', hs', hinv, (congrArg FifoResult.fifo hres).trans ?_⟩
    simp [Fifo.run, hc, hne, h.cap_lt_iff, hfit.not_gt]
  · obtain ⟨s', hs', hinv, hres⟩ := h.transact_completes hd (congrArg List.length hp)
    refine ⟨s', hs', hinv, (congrArg FifoResult.fifo hres).trans ?_⟩
    have hpos : s.free ≠ 0 := Nat.one_le_iff_ne_zero.mp hfit
    simp [Fifo.run, hc, h.cap_lt_iff, hpos]

/-- A canonical RDBUF of held bytes returns the first of Q (R90). -/
theorem State.Inv.transact_rdbuf {s : State} (h : s.Inv) (hc : s.cfg = true) {t : Transaction} {n : Nat}
    (hd : decode t.cmd = .ok (.rdbuf true true n)) (hp : t.wdata = []) (hn : 0 < n) (hheld : n ≤ s.used) :
    ∃ s', transact t s = .next s' ∧ s'.status = 0#3 ∧ s'.rdata = s.queueBytes.take n := by
  obtain ⟨s', hs', -, hres⟩ := h.transact_completes hd (congrArg List.length hp)
  have hrun : s'.result = ⟨{ s.fifo with bytes := s.queueBytes.drop n }, 0#3, s.queueBytes.take n⟩ := by
    rw [hres]
    simp [Fifo.run, hc, hn.ne', h.length_queueBytes, hheld.not_gt]
  exact ⟨s', hs', congrArg FifoResult.status hrun, congrArg FifoResult.rdata hrun⟩

theorem transactAll_cons_of_next {t : Transaction} {s s' : State} (h : transact t s = .next s') (ts : List Transaction) :
    transactAll (t :: ts) s = transactAll ts s' := by
  simp [transactAll, h]

/-- Writes that fit, one after another, put their bytes at the end of Q in order, whatever follows them. -/
theorem State.Inv.transactAll_writes {s : State} (h : s.Inv) (hc : s.cfg = true) {ws : List (Transaction × List Byte)}
    (hws : ∀ w ∈ ws, w.1.writes = some w.2) (hfit : (ws.map fun w => w.2.length).sum ≤ s.free) (ts : List Transaction) :
    ∃ s', transactAll (ws.map Prod.fst ++ ts) s = transactAll ts s' ∧ s'.Inv ∧
      s'.fifo = { s.fifo with bytes := s.queueBytes ++ (ws.map Prod.snd).flatten } := by
  induction ws generalizing s with
  | nil => exact ⟨s, rfl, h, by simp [State.fifo]⟩
  | cons w ws ih =>
    obtain ⟨hw, hws⟩ := List.forall_mem_cons.mp hws
    rw [List.map_cons, List.sum_cons] at hfit
    obtain ⟨s₁, hs₁, h₁, hfifo₁⟩ := h.transact_write hc hw (by omega)
    have hc₁ : s₁.cfg = true := (congrArg Fifo.cfg hfifo₁).trans hc
    have hfree₁ : s₁.free = s.free - w.2.length := by
      rw [h₁.free_eq, hfifo₁, h.free_eq, List.length_append, Nat.sub_add_eq]
      rfl
    obtain ⟨s', hs', h', hfifo'⟩ := ih h₁ hc₁ hws (by omega)
    refine ⟨s', (transactAll_cons_of_next hs₁ _).trans hs', h', ?_⟩
    rw [hfifo', ← State.fifo_bytes, hfifo₁]
    simp

/-- Settles O55: by induction on the writes each puts its bytes at the end of Q, and the RDBUF returns the first bytes of that Q. -/
theorem fifoOrdering : Obligations.FifoOrdering := by
  intro s ws rd n h hc hws hd hp hn hfit hheld
  obtain ⟨s₁, hs₁, h₁, hfifo₁⟩ := h.transactAll_writes hc hws hfit [rd]
  have hc₁ : s₁.cfg = true := (congrArg Fifo.cfg hfifo₁).trans hc
  have hbytes₁ : s₁.queueBytes = s.queueBytes ++ (ws.map Prod.snd).flatten := congrArg Fifo.bytes hfifo₁
  have hused₁ : s₁.used = s.used + (ws.map fun w => w.2.length).sum := by
    rw [← h₁.length_queueBytes, hbytes₁, List.length_append, h.length_queueBytes, List.length_flatten, List.map_map]
    rfl
  obtain ⟨t, ht, hstatus, hrdata⟩ := h₁.transact_rdbuf hc₁ hd hp hn (by omega)
  exact ⟨t, hs₁.trans (transactAll_cons_of_next ht []), hstatus, by rw [hrdata, hbytes₁]⟩

/-! ### Drained equals fresh -/

theorem SameQueue.cfg {s t : State} (h : SameQueue s t) : s.cfg = t.cfg := congrArg Fifo.cfg h.fifo

theorem SameQueue.nextDraw {s t : State} (h : SameQueue s t) : s.nextDraw = t.nextDraw := by
  rw [State.nextDraw, State.nextDraw, h.allocInput, h.allocDrawn]

theorem SameQueue.afterDraw {s t : State} (h : SameQueue s t) : SameQueue s.afterDraw t.afterDraw where
  fifo := h.fifo
  gie := h.gie
  allocInput := congrArg List.tail h.allocInput
  allocDrawn := congrArg (· + 1) h.allocDrawn
  agents := h.agents
  schedule := h.schedule

theorem SameQueue.used_free {s t : State} (h : SameQueue s t) (hs : s.Inv) (ht : t.Inv) : s.used = t.used ∧ s.free = t.free := by
  rw [hs.used_eq, ht.used_eq, hs.free_eq, ht.free_eq, h.fifo]
  exact ⟨rfl, rfl⟩

theorem SameQueue.fetch {s t : State} (h : SameQueue s t) (a : Nat) : s.fetch a = t.fetch a := by
  rw [State.fetch, State.fetch, h.agents]

/-- CREATE makes the same draws on both. -/
theorem SameQueue.createBody_draws {s t : State} (h : SameQueue s t) (c : Nat) :
    (createBody c s).allocInput = (createBody c t).allocInput ∧ (createBody c s).allocDrawn = (createBody c t).allocDrawn := by
  simp only [createBody, h.cfg, h.nextDraw, h.afterDraw.nextDraw]
  repeat' split
  all_goals simp [h.allocInput, h.allocDrawn]

/-- A command makes the same draws on both. -/
theorem SameQueue.exec_draws {s t s' t' : State} (h : SameQueue s t) {i : Instr} (hs : exec i s = .next s')
    (ht : exec i t = .next t') :
    s'.allocInput = t'.allocInput ∧ s'.allocDrawn = t'.allocDrawn := by
  by_cases hi : ∃ c, i = .create c
  · obtain ⟨c, rfl⟩ := hi
    obtain rfl : createBody c s = s' := Except.ok.inj (exec_next hs).2
    obtain rfl : createBody c t = t' := Except.ok.inj (exec_next ht).2
    exact h.createBody_draws c
  · obtain ⟨hsInput, hsDrawn⟩ := exec_keeps_draws hs hi
    obtain ⟨htInput, htDrawn⟩ := exec_keeps_draws ht hi
    exact ⟨by rw [hsInput, htInput, h.allocInput], by rw [hsDrawn, htDrawn, h.allocDrawn]⟩

/-- A command with the same payload answers both the same and leaves both with the same queue. -/
theorem SameQueue.exec_alike {s t s' : State} (h : SameQueue s t) (hs : s.Inv) (ht : t.Inv) (hp : s.wdata = t.wdata) {i : Instr}
    (hx : exec i s = .next s') :
    ∃ t', exec i t = .next t' ∧ SameQueue s' t' ∧ s'.status = t'.status ∧ s'.rdata = t'.rdata := by
  obtain ⟨hlen, hbody⟩ := exec_next hx
  obtain ⟨t', hx'⟩ := ht.exec_completes (i := i) (by rw [← hp, hlen])
  have hres : s'.result = t'.result := by
    rw [hs.exec_result hx, ht.exec_result hx', h.fifo, hp, h.nextDraw, h.afterDraw.nextDraw]
  obtain ⟨hinput, hdrawn⟩ := h.exec_draws hx hx'
  obtain ⟨hsGie, -, hsAgents, hsSchedule, -⟩ := bodyOf_platform hbody
  obtain ⟨htGie, -, htAgents, htSchedule, -⟩ := bodyOf_platform (exec_next hx').2
  have hsame : SameQueue s' t' :=
    ⟨congrArg FifoResult.fifo hres, by rw [hsGie, htGie, h.gie], hinput, hdrawn, by rw [hsAgents, htAgents, h.agents],
      by rw [hsSchedule, htSchedule, h.schedule]⟩
  exact ⟨t', hx', hsame, congrArg FifoResult.status hres, congrArg FifoResult.rdata hres⟩

theorem SameQueue.raise {s t : State} (h : SameQueue s t) (S : Status) : SameQueue (s.raise S) (t.raise S) :=
  ⟨h.fifo, h.gie, h.allocInput, h.allocDrawn, h.agents, h.schedule⟩

theorem SameQueue.dropEvent {s t : State} (h : SameQueue s t) (es : List Event) : SameQueue (s.dropEvent es) (t.dropEvent es) :=
  ⟨h.fifo, h.gie, h.allocInput, h.allocDrawn, h.agents, rfl⟩

theorem SameQueue.putGie {s t : State} (h : SameQueue s t) (v : Bool) : SameQueue (s.putGie v) (t.putGie v) :=
  ⟨h.fifo, rfl, h.allocInput, h.allocDrawn, h.agents, h.schedule⟩

theorem SameQueue.blockReset {s t : State} (h : SameQueue s t) : SameQueue s.blockReset t.blockReset :=
  ⟨rfl, h.gie, h.allocInput, h.allocDrawn, h.agents, h.schedule⟩

theorem SameQueue.present {s t : State} (h : SameQueue s t) (a : Nat) (x : Transaction) : SameQueue (s.present a x) (t.present a x) :=
  ⟨h.fifo, h.gie, h.allocInput, h.allocDrawn, congrArg (advanceAgent · a) h.agents, h.schedule⟩

theorem SameQueue.record {s t : State} (h : SameQueue s t) (a : Nat) : SameQueue (s.record a) (t.record a) :=
  ⟨h.fifo, h.gie, h.allocInput, h.allocDrawn, h.agents, h.schedule⟩

/-- A word with the same payload, a command's or an illegal one, answers both the same and leaves both with the same queue. -/
theorem SameQueue.runWord_alike {s t s' : State} (h : SameQueue s t) (hs : s.Inv) (ht : t.Inv) (hp : s.wdata = t.wdata) {w : Word}
    (hx : runWord w s = .next s') :
    ∃ t', runWord w t = .next t' ∧ SameQueue s' t' ∧ s'.status = t'.status ∧ s'.rdata = t'.rdata := by
  rcases runWord_next hx with ⟨i, hd, hi⟩ | ⟨e, hd, hnil, rfl⟩
  · rw [runWord_of_ok hd]
    exact h.exec_alike hs ht hp hi
  · rw [runWord_of_error hd]
    exact ⟨_, withPayload_eq_next.mpr ⟨by rw [← hp, hnil]; rfl, rfl⟩, h.raise _, rfl, rfl⟩

/-- A step leaves both with the same queue and adds the same responses. -/
theorem SameQueue.step_alike {s t s' : State} (h : SameQueue s t) (hs : s.Inv) (ht : t.Inv) (hx : step s = .next s') :
    ∃ t', step t = .next t' ∧ SameQueue s' t' ∧
      ∃ rs : List Completion, s'.responses = s.responses ++ rs ∧ t'.responses = t.responses ++ rs := by
  rcases step_next hx with ⟨he, rfl⟩ | ⟨es, he, rfl⟩ | ⟨v, es, he, rfl⟩ | ⟨a, es, he, hf, rfl⟩ |
    ⟨a, es, x, u, he, hf, hu, rfl⟩
  all_goals rw [h.schedule] at he
  · exact ⟨t, by simp [step, he], h, [], by simp⟩
  · exact ⟨(t.dropEvent es).blockReset, by simp [step, he], (h.dropEvent es).blockReset, [], by simp⟩
  · exact ⟨(t.dropEvent es).putGie v, by simp [step, he], (h.dropEvent es).putGie v, [], by simp⟩
  · rw [h.fetch] at hf
    exact ⟨t.dropEvent es, by simp [step, he, hf], h.dropEvent es, [], by simp⟩
  · rw [h.fetch] at hf
    obtain ⟨v, hv, huv, hstatus, hrdata⟩ :=
      ((h.dropEvent es).present a x).runWord_alike (hs.present es a x) (ht.present es a x) rfl hu
    obtain ⟨-, hsResponses⟩ := runWord_keeps_run hu
    obtain ⟨-, htResponses⟩ := runWord_keeps_run hv
    refine ⟨v.record a, by rw [step_issue he hf, hv]; rfl, huv.record a, [⟨a, ⟨u.status, u.rdata⟩⟩], ?_, ?_⟩
    · simp [hsResponses]
    · simp [htResponses, hstatus, hrdata]

/-- A run leaves both with the same queue and adds the same responses. -/
theorem SameQueue.run_alike {k : Nat} {s t s' : State} (h : SameQueue s t) (hs : s.Inv) (ht : t.Inv)
    (hx : Host.Core.run core k s = .next s') :
    ∃ t', Host.Core.run core k t = .next t' ∧ s'.Inv ∧ t'.Inv ∧ SameQueue s' t' ∧
      ∃ rs : List Completion, s'.responses = s.responses ++ rs ∧ t'.responses = t.responses ++ rs := by
  induction k generalizing s t with
  | zero =>
    obtain rfl : s = s' := Host.Outcome.next.inj hx
    exact ⟨t, rfl, hs, ht, h, [], by simp⟩
  | succ k ih =>
    obtain ⟨s₁, hs₁, hrun⟩ := run_succ_next hx
    obtain ⟨t₁, ht₁, h₁, rs₁, hsr₁, htr₁⟩ := h.step_alike hs ht hs₁
    obtain ⟨t', ht', hsInv, htInv, h', rs, hsr, htr⟩ := ih h₁ (step_keeps_inv hs hs₁) (step_keeps_inv ht ht₁) hrun
    refine ⟨t', (run_succ_of_next ht₁).trans ht', hsInv, htInv, h', rs₁ ++ rs, ?_, ?_⟩
    · rw [hsr, hsr₁, List.append_assoc]
    · rw [htr, htr₁, List.append_assoc]

/-- Two drained instances of one capacity hold the same queue. -/
theorem fifo_eq_of_used_zero {s t : State} (hs : s.Inv) (ht : t.Inv) (hcfg : s.cfg = t.cfg) (hcap : s.cap = t.cap)
    (hus : s.used = 0) (hut : t.used = 0) : s.fifo = t.fifo := by
  rw [State.fifo, State.fifo, hcfg, hcap, hs.queueBytes_of_used_zero hus, ht.queueBytes_of_used_zero hut]

/-- Settles O56: a drained block's Q is empty, and states with the same queue answer each step, so each run, alike. -/
theorem drainedEqualsFresh : Obligations.DrainedEqualsFresh := by
  refine ⟨fun s t hs ht hcs hct hcap hused hhead htail => ?_, fun k s t s' hs ht h hx => ?_⟩
  · have hfresh : t.used = 0 := by simp [State.used, hhead, htail]
    refine ⟨?_, (State.empty_iff_used hs.headLegal hs.tailLegal).mpr hused, fun hpos => ?_,
      fifo_eq_of_used_zero hs ht (hcs.trans hct.symm) hcap hused hfresh⟩
    · rw [← s.used_add_free, hused, Nat.zero_add]
    · rw [Bool.eq_false_iff, ne_eq, State.full_iff, hused]
      exact hpos.ne
  · obtain ⟨t', ht', hsInv, htInv, h', hresponses⟩ := h.run_alike hs ht hx
    obtain ⟨hused, hfree⟩ := h'.used_free hsInv htInv
    exact ⟨t', ht', h', hused, hfree, hresponses⟩

/-! ### PEEK then CONSUME -/

/-- No command reads STATUS or RDATA. -/
theorem exec_putResponse (i : Instr) (s : State) (c : StatusCode) (d : List Byte) :
    exec i { s with status := c, rdata := d } = exec i s := by
  have hbody : bodyOf i { s with status := c, rdata := d } = bodyOf i s := by cases i <;> rfl
  rw [exec_eq, exec_eq, hbody]

theorem consumeBody_of_valid {s : State} {bv : Bool} {n : Nat} (hv : s.handleValid bv = true) (hn : 0 < n) (hheld : n ≤ s.used) :
    consumeBody bv n s = .ok ((s.commitTail (advance s.tail n s.size)).finish []) := by
  simp [consumeBody, hv, hn.ne', hheld.not_gt]

/-- The three canonical reads make the same checks (R93): all three fail with one status, or all three pass them. -/
theorem reads_fail_alike_or_valid (s : State) (n : Nat) :
    (∃ S : Status, peekBody true true n s = .ok (s.raise S) ∧ rdbufBody true true n s = .ok (s.raise S) ∧
      consumeBody true n s = .ok (s.raise S)) ∨
    (s.handleValid true = true ∧ 0 < n ∧ n ≤ s.used) := by
  cases hv : s.handleValid true
  · exact .inl ⟨.invalidArgument, by simp [peekBody, hv], by simp [rdbufBody, hv], by simp [consumeBody, hv]⟩
  rcases Nat.eq_zero_or_pos n with rfl | hn
  · exact .inl ⟨.invalidArgument, by simp [peekBody], by simp [rdbufBody], by simp [consumeBody]⟩
  rcases Nat.lt_or_ge s.used n with hshort | hheld
  · exact .inl ⟨.insufficientData, peekBody_of_used_lt hv hn hshort, rdbufBody_of_used_lt hv hn hshort,
      consumeBody_of_used_lt hv hn hshort⟩
  · exact .inr ⟨rfl, hn, hheld⟩

/-- An index that advances by less than SIZE and not by 0 moves. -/
theorem advance_ne_self {s : State} {base : Index} {n : Nat} (hb : base.toNat < s.size) (hn : 0 < n) (hlt : n < s.size) :
    advance base n s.size ≠ base := by
  intro heq
  have hslot : slotAt base.toNat s.size n = slotAt base.toNat s.size 0 := by
    rw [slotAt, slotAt, ← advance_toNat, heq, Nat.add_zero, Nat.mod_eq_of_lt hb]
  exact hn.ne' (slotAt_injective hlt s.size_pos hslot)

/-- The canonical reads of held bytes: PEEK returns the first bytes of Q, CONSUME moves TAIL, and RDBUF does both. -/
theorem State.Inv.reads_of_valid {s : State} (h : s.Inv) {n : Nat} (hv : s.handleValid true = true) (hn : 0 < n)
    (hheld : n ≤ s.used) :
    peekBody true true n s = .ok (s.finish (s.queueBytes.take n)) ∧
    rdbufBody true true n s = .ok ((s.commitTail (advance s.tail n s.size)).finish (s.queueBytes.take n)) ∧
    consumeBody true n s = .ok ((s.commitTail (advance s.tail n s.size)).finish []) := by
  have hread := (h.queueBytes_split hheld).1
  refine ⟨?_, ?_, consumeBody_of_valid hv hn hheld⟩
  · rw [peekBody_of_valid hv hn hheld, hread]
    rfl
  · rw [rdbufBody_of_valid hv hn hheld, hread]
    rfl

theorem peekBody_of_null_data (bv : Bool) (n : Nat) (s : State) : peekBody bv false n s = .ok (s.raise .invalidArgument) := by
  simp [peekBody]

theorem rdbufBody_of_null_data (bv : Bool) (n : Nat) (s : State) : rdbufBody bv false n s = .ok (s.raise .invalidArgument) := by
  simp [rdbufBody]

/-- After a read that failed, a CONSUME of held bytes succeeds and moves TAIL (R93). -/
theorem State.Inv.consume_moves_tail {s : State} (h : s.Inv) (hp : s.wdata = []) (hc : s.cfg = true) {n : Nat} (hn : 0 < n)
    (hheld : n ≤ s.used) (c : StatusCode) (d : List Byte) :
    ∃ t, exec (.consume true n) { s with status := c, rdata := d } = .next t ∧ t.status = 0#3 ∧ t.tail ≠ s.tail := by
  have hconsume := consumeBody_of_valid (State.handleValid_iff.mpr ⟨rfl, hc⟩) hn hheld
  exact ⟨_, (exec_putResponse _ s c d).trans (exec_next_of_body (congrArg List.length hp) hconsume), rfl,
    advance_ne_self h.tailLegal hn (hheld.trans_lt s.used_lt_size)⟩

/-- Settles O40: the three commands make the same checks, and CONSUME's see the state PEEK left, which is unchanged but for its
response; the `.ND` forms fail at DV, which CONSUME has not. -/
theorem peekThenConsumeIsRead : Obligations.PeekThenConsumeIsRead := by
  intro s n h hp
  have hlen : s.wdata.length = 0 := congrArg List.length hp
  have hnd (hc : s.cfg = true) (hn : 0 < n) (hheld : n ≤ s.used) :=
    And.intro (exec_next_of_body (i := .peek true false n) hlen (peekBody_of_null_data true n s))
      (And.intro (exec_next_of_body (i := .rdbuf true false n) hlen (rdbufBody_of_null_data true n s))
        (h.consume_moves_tail hp hc hn hheld 1#3 []))
  rcases reads_fail_alike_or_valid s n with ⟨S, hpeek, hrdbuf, hconsume⟩ | ⟨hv, hn, hheld⟩
  · exact ⟨_, _, _, exec_next_of_body hlen hpeek, (exec_putResponse _ s _ _).trans (exec_next_of_body hlen hconsume),
      exec_next_of_body hlen hrdbuf, rfl, rfl, fun h0 => ⟨h0, h0⟩, fun _ => ⟨rfl, rfl⟩, hnd⟩
  · obtain ⟨hpeek, hrdbuf, hconsume⟩ := h.reads_of_valid hv hn hheld
    exact ⟨_, _, _, exec_next_of_body hlen hpeek, (exec_putResponse _ s _ _).trans (exec_next_of_body hlen hconsume),
      exec_next_of_body hlen hrdbuf, rfl, rfl, fun _ => ⟨rfl, rfl⟩, absurd rfl, hnd⟩

end Sys2Proof.Machine
end

section
/-! PROOFS. How a command completes (60_exceptions.md): the status it reports, the first of its causes that applies, and the GIE
bracket, which no command's meaning sees. -/

namespace Sys2Proof.Machine

/-! ### The first cause that applies -/

/-- The status a command completes with: of its causes the first that applies in the order of R105, OK when none does. -/
def State.firstCause (s : State) : Instr → Status
  | .create c =>
    if s.cfg then .illegalCommand
    else if Config.maxCap < c then .capacityExceeded
    else if s.nextDraw = false then .allocationFailed
    else if s.afterDraw.nextDraw = false then .allocationFailed
    else .ok
  | .wrbuf bv dv n =>
    if bv = false ∨ s.cfg = false ∨ dv = false ∨ n = 0 then .invalidArgument
    else if s.free < n then .insufficientSpace else .ok
  | .wrbyte bv _ =>
    if bv = false ∨ s.cfg = false then .invalidArgument else if s.free = 0 then .insufficientSpace else .ok
  | .rdbuf bv dv n =>
    if bv = false ∨ s.cfg = false ∨ dv = false ∨ n = 0 then .invalidArgument
    else if s.used < n then .insufficientData else .ok
  | .peek bv dv n =>
    if bv = false ∨ s.cfg = false ∨ dv = false ∨ n = 0 then .invalidArgument
    else if s.used < n then .insufficientData else .ok
  | .consume bv n =>
    if bv = false ∨ s.cfg = false ∨ n = 0 then .invalidArgument
    else if s.used < n then .insufficientData else .ok

theorem createBody_status (c : Nat) (s : State) : (createBody c s).status = (s.firstCause (.create c)).code := by
  rcases createBody_cases c s with ⟨hcfg, e⟩ | ⟨hcfg, hc, e⟩ | ⟨hcfg, hc, hd, e⟩ | ⟨hcfg, hc, hd, hd', e⟩ |
    ⟨hcfg, hc, hd, hd', e⟩ <;> rw [e]
  · simp [State.firstCause, hcfg]
  · simp [State.firstCause, hcfg, hc]
  · simp [State.firstCause, hcfg, hc.not_gt, hd]
  · simp [State.firstCause, hcfg, hc.not_gt, hd, hd']
  · simp [State.firstCause, hcfg, hc.not_gt, hd, hd']

theorem wrbufBody_status {bv dv : Bool} {n : Nat} {s t : State} (h : wrbufBody bv dv n s = .ok t) :
    t.status = (s.firstCause (.wrbuf bv dv n)).code := by
  rcases wrbufBody_cases h with ⟨harg, rfl⟩ | ⟨hv, rfl, hn, hfull, rfl⟩ | ⟨hv, rfl, hn, hfit, m, -, rfl⟩
  · rw [State.handleValid_eq_false, or_assoc] at harg
    simp [State.firstCause, harg]
  · obtain ⟨rfl, hcfg⟩ := State.handleValid_iff.mp hv
    simp [State.firstCause, hcfg, hn, hfull]
  · obtain ⟨rfl, hcfg⟩ := State.handleValid_iff.mp hv
    simp [State.firstCause, hcfg, hn, hfit.not_gt]

theorem wrbyteBody_status {bv : Bool} {b : Byte} {s t : State} (h : wrbyteBody bv b s = .ok t) :
    t.status = (s.firstCause (.wrbyte bv b)).code := by
  rcases wrbyteBody_cases h with ⟨harg, rfl⟩ | ⟨hv, hfull, rfl⟩ | ⟨hv, hfit, -, rfl⟩
  · rw [State.handleValid_eq_false] at harg
    simp [State.firstCause, harg]
  · obtain ⟨rfl, hcfg⟩ := State.handleValid_iff.mp hv
    simp [State.firstCause, hcfg, hfull]
  · obtain ⟨rfl, hcfg⟩ := State.handleValid_iff.mp hv
    simp [State.firstCause, hcfg, hfit]

theorem rdbufBody_status {bv dv : Bool} {n : Nat} {s t : State} (h : rdbufBody bv dv n s = .ok t) :
    t.status = (s.firstCause (.rdbuf bv dv n)).code := by
  rcases rdbufBody_cases h with ⟨harg, rfl⟩ | ⟨hv, rfl, hn, hshort, rfl⟩ | ⟨hv, rfl, hn, hheld, vs, -, rfl⟩
  · rw [State.handleValid_eq_false, or_assoc] at harg
    simp [State.firstCause, harg]
  · obtain ⟨rfl, hcfg⟩ := State.handleValid_iff.mp hv
    simp [State.firstCause, hcfg, hn, hshort]
  · obtain ⟨rfl, hcfg⟩ := State.handleValid_iff.mp hv
    simp [State.firstCause, hcfg, hn, hheld.not_gt]

theorem peekBody_status {bv dv : Bool} {n : Nat} {s t : State} (h : peekBody bv dv n s = .ok t) :
    t.status = (s.firstCause (.peek bv dv n)).code := by
  rcases peekBody_cases h with ⟨harg, rfl⟩ | ⟨hv, rfl, hn, hshort, rfl⟩ | ⟨hv, rfl, hn, hheld, vs, -, rfl⟩
  · rw [State.handleValid_eq_false, or_assoc] at harg
    simp [State.firstCause, harg]
  · obtain ⟨rfl, hcfg⟩ := State.handleValid_iff.mp hv
    simp [State.firstCause, hcfg, hn, hshort]
  · obtain ⟨rfl, hcfg⟩ := State.handleValid_iff.mp hv
    simp [State.firstCause, hcfg, hn, hheld.not_gt]

theorem consumeBody_status {bv : Bool} {n : Nat} {s t : State} (h : consumeBody bv n s = .ok t) :
    t.status = (s.firstCause (.consume bv n)).code := by
  rcases consumeBody_cases h with ⟨harg, rfl⟩ | ⟨hv, hn, hshort, rfl⟩ | ⟨hv, hn, hheld, rfl⟩
  · rw [State.handleValid_eq_false, or_assoc] at harg
    simp [State.firstCause, harg]
  · obtain ⟨rfl, hcfg⟩ := State.handleValid_iff.mp hv
    simp [State.firstCause, hcfg, hn, hshort]
  · obtain ⟨rfl, hcfg⟩ := State.handleValid_iff.mp hv
    simp [State.firstCause, hcfg, hn, hheld.not_gt]

/-- A command that completes reports its first cause (R105). -/
theorem exec_status {i : Instr} {s t : State} (h : exec i s = .next t) : t.status = (s.firstCause i).code := by
  have hb := (exec_next h).2
  cases i with
  | create c =>
    obtain rfl : createBody c s = t := Except.ok.inj hb
    exact createBody_status c s
  | wrbuf => exact wrbufBody_status hb
  | wrbyte => exact wrbyteBody_status hb
  | rdbuf => exact rdbufBody_status hb
  | peek => exact peekBody_status hb
  | consume => exact consumeBody_status hb

theorem Status.code_injective : Function.Injective Status.code := by
  intro S S' h
  revert h
  cases S <;> cases S' <;> decide

/-- A command completes with a status exactly when that status is its first cause. -/
theorem exec_status_iff {i : Instr} {s t : State} (h : exec i s = .next t) (S : Status) :
    t.status = S.code ↔ s.firstCause i = S := by
  rw [exec_status h, Status.code_injective.eq_iff]

/-- The argument check comes before the check of FREE or USED. -/
theorem argumentCause_iff {P Q : Prop} [Decidable P] [Decidable Q] {S : Status} (hS : S ≠ .invalidArgument) :
    (if P then Status.invalidArgument else if Q then S else .ok) = .invalidArgument ↔ P := by
  by_cases hP : P
  · simp [hP]
  · by_cases hQ : Q <;> simp [hP, hQ, hS]

/-- Settles O43: for each command that can report it, InvalidArgument is the first cause in its order. -/
theorem invalidArgumentCauses : Obligations.InvalidArgumentCauses := by
  intro s t i h
  refine (exec_status_iff h .invalidArgument).trans ?_
  cases i with
  | create c => simp [State.firstCause, ite_eq_iff]
  | wrbuf bv dv n => exact argumentCause_iff nofun
  | wrbyte bv b => exact argumentCause_iff nofun
  | rdbuf bv dv n => exact argumentCause_iff nofun
  | peek bv dv n => exact argumentCause_iff nofun
  | consume bv n => exact argumentCause_iff nofun

/-! ### The failures of one command alone -/

theorem State.firstCause_eq_capacityExceeded {s : State} {i : Instr} :
    s.firstCause i = .capacityExceeded ↔ ∃ c, i = .create c ∧ s.cfg = false ∧ Config.maxCap < c := by
  cases i with
  | create c => simp [State.firstCause, ite_eq_iff]
  | _ => simp [State.firstCause, ite_eq_iff]

theorem State.firstCause_eq_allocationFailed {s : State} {i : Instr} :
    s.firstCause i = .allocationFailed ↔ ∃ c, i = .create c ∧ s.cfg = false ∧ c ≤ Config.maxCap ∧
      (s.nextDraw = false ∨ s.afterDraw.nextDraw = false) := by
  cases i with
  | create c => simp [State.firstCause, ite_eq_iff, or_iff_not_imp_left]
  | _ => simp [State.firstCause, ite_eq_iff]

theorem State.firstCause_eq_illegalCommand {s : State} {i : Instr} :
    s.firstCause i = .illegalCommand ↔ (∃ c, i = .create c) ∧ s.cfg = true := by
  cases i with
  | create c => simp [State.firstCause, ite_eq_iff]
  | _ => simp [State.firstCause, ite_eq_iff]

theorem State.firstCause_eq_insufficientSpace {s : State} {i : Instr} :
    s.firstCause i = .insufficientSpace ↔
      (∃ n, i = .wrbuf true true n ∧ s.cfg = true ∧ n ≠ 0 ∧ s.free < n) ∨
      ∃ b, i = .wrbyte true b ∧ s.cfg = true ∧ s.free = 0 := by
  cases i with
  | wrbuf bv dv n => simp [State.firstCause, ite_eq_iff, and_assoc, and_left_comm]
  | wrbyte bv b => simp [State.firstCause, ite_eq_iff, and_assoc]
  | _ => simp [State.firstCause, ite_eq_iff]

theorem State.firstCause_eq_insufficientData {s : State} {i : Instr} :
    s.firstCause i = .insufficientData ↔
      ∃ n, (i = .rdbuf true true n ∨ i = .peek true true n ∨ i = .consume true n) ∧ s.cfg = true ∧ n ≠ 0 ∧ s.used < n := by
  cases i with
  | rdbuf bv dv n => simp [State.firstCause, ite_eq_iff, and_assoc, and_left_comm]
  | peek bv dv n => simp [State.firstCause, ite_eq_iff, and_assoc, and_left_comm]
  | consume bv n => simp [State.firstCause, ite_eq_iff, and_assoc]
  | _ => simp [State.firstCause, ite_eq_iff]

/-- Settles O45: both are causes of CREATE alone, on an unconfigured block, and the capacity is checked before the draws. -/
theorem createStatusCauses : Obligations.CreateStatusCauses := fun _ _ _ h =>
  ⟨(exec_status_iff h .capacityExceeded).trans State.firstCause_eq_capacityExceeded,
    (exec_status_iff h .allocationFailed).trans State.firstCause_eq_allocationFailed⟩

/-- Settles O46: FREE is the last check of the writes and USED the last of the reads. -/
theorem insufficientCauses : Obligations.InsufficientCauses := fun _ _ _ h =>
  ⟨(exec_status_iff h .insufficientSpace).trans State.firstCause_eq_insufficientSpace,
    (exec_status_iff h .insufficientData).trans State.firstCause_eq_insufficientData⟩

/-! ### Words -/

/-- A word that completes reports its command's first cause, or IllegalCommand when it is no command (R69). -/
theorem runWord_status {w : Word} {s t : State} (h : runWord w s = .next t) :
    (∃ i, decode w = .ok i ∧ t.status = (s.firstCause i).code) ∨ (∃ e, decode w = .error e ∧ t.status = 7#3) := by
  rcases runWord_next h with ⟨i, hd, hi⟩ | ⟨e, hd, -, rfl⟩
  · exact .inl ⟨i, hd, exec_status hi⟩
  · exact .inr ⟨e, hd, rfl⟩

/-- Every word that completes reports one of the seven statuses (R97). -/
theorem runWord_status_code {w : Word} {s t : State} (h : runWord w s = .next t) : ∃ S : Status, t.status = S.code := by
  rcases runWord_status h with ⟨i, -, hstatus⟩ | ⟨e, -, hstatus⟩
  · exact ⟨_, hstatus⟩
  · exact ⟨.illegalCommand, hstatus⟩

/-- Settles O47: an unselected word does not decode and raises IllegalCommand, which of the six commands CREATE alone reports. -/
theorem illegalCommandCauses : Obligations.IllegalCommandCauses := by
  intro s t w h
  constructor
  · rw [← decode_error_iff]
    rcases runWord_status h with ⟨i, hd, hstatus⟩ | ⟨e, hd, hstatus⟩
    · have hillegal : t.status = 7#3 ↔ s.firstCause i = .illegalCommand := by
        rw [hstatus]
        exact Status.code_injective.eq_iff (b := .illegalCommand)
      simp [hillegal, State.firstCause_eq_illegalCommand, hd]
    · simp [hd, hstatus]
  · obtain ⟨S, hS⟩ := runWord_status_code h
    exact hS ▸ S.code_ne_six

/-- Settles O48: a word that decodes reports its command's first cause, and any other IllegalCommand. -/
theorem statusPriority : Obligations.StatusPriority := by
  intro s t w h
  rcases runWord_status h with ⟨i, hd, hstatus⟩ | ⟨e, hd, hstatus⟩
  · rw [hstatus, hd]
    cases i <;> simp only [State.firstCause, apply_ite Status.code] <;> rfl
  · rw [hstatus, hd]

/-- Under the invariant a word completes when its payload has the length R70 asks for (R97). -/
theorem State.Inv.runWord_completes {s : State} (h : s.Inv) {w : Word} (hw : Transaction.wellFormed ⟨w, s.wdata⟩ = true) :
    ∃ t, runWord w s = .next t := by
  cases hd : decode w with
  | ok i =>
    rw [runWord_of_ok hd]
    exact h.exec_completes (by simpa [Transaction.wellFormed, hd] using hw)
  | error e =>
    rw [runWord_of_error hd]
    exact ⟨_, withPayload_eq_next.mpr ⟨by simpa [Transaction.wellFormed, hd] using hw, rfl⟩⟩

/-- Settles O6: no well-formed word faults or is refused under the invariant, and a failure writes STATUS and RDATA alone. -/
theorem everyCommandCompletes : Obligations.EveryCommandCompletes := by
  intro s t h
  refine ⟨fun hwf => ?_, fun hwf => runWord_refused.mpr hwf⟩
  have hport : (s.putWdata t.wdata).Inv := h.of_block rfl rfl rfl rfl rfl rfl rfl
  obtain ⟨s', hs'⟩ := hport.runWord_completes (w := t.cmd) hwf
  obtain ⟨S, hS⟩ := runWord_status_code hs'
  exact ⟨s', hs', S, hS, (failureChangesStatusAlone _ _ _ hs').1⟩

/-! ### The GIE bracket -/

/-- A critical command that completes ran its body with GIE = 0, and set GIE again only if it was set (R110). -/
theorem critical_command_next {len : Nat} {s t : State} {body : State → Except Fault State}
    (hgie : ∀ {u}, body (s.putGie false) = .ok u → u.gie = false) (h : withPayload len s (critical · body) = .next t) :
    ∃ u, body { s with gie := false } = .ok u ∧ u.gie = false ∧ t = if s.gie then { u with gie := true } else u := by
  obtain ⟨-, hcritical⟩ := withPayload_eq_next.mp h
  obtain ⟨u, hu, ht⟩ := critical_eq_next.mp hcritical
  exact ⟨u, hu, hgie hu, ht⟩

theorem runWord_keeps_gie {w : Word} {s t : State} (h : runWord w s = .next t) : t.gie = s.gie := by
  rcases runWord_next h with ⟨i, -, hi⟩ | ⟨e, -, -, rfl⟩
  · exact (bodyOf_platform (exec_next hi).2).1
  · rfl

/-- Settles O51: the bracket of each of the five commands runs its body with GIE = 0, which no body writes. -/
theorem gieRestored : Obligations.GieRestored := by
  refine ⟨fun s t body i hi h => ?_, fun s t w => runWord_keeps_gie⟩
  rcases hi with ⟨bv, dv, n, rfl, rfl⟩ | ⟨bv, b, rfl, rfl⟩ | ⟨bv, dv, n, rfl, rfl⟩ | ⟨bv, dv, n, rfl, rfl⟩ | ⟨bv, n, rfl, rfl⟩
  · exact critical_command_next wrbufBody_gie h
  · exact critical_command_next wrbyteBody_gie h
  · exact critical_command_next rdbufBody_gie h
  · exact critical_command_next peekBody_gie h
  · exact critical_command_next consumeBody_gie h

theorem createBody_putGie (c : Nat) (s : State) (v : Bool) : createBody c (s.putGie v) = (createBody c s).putGie v := by
  simp only [createBody, apply_ite (State.putGie · v)]
  rfl

/-- No command's body reads or writes GIE. -/
theorem bodyOf_putGie (i : Instr) (s : State) (v : Bool) : bodyOf i (s.putGie v) = (bodyOf i s).map (State.putGie · v) := by
  cases i with
  | create c => exact congrArg Except.ok (createBody_putGie c s v)
  | wrbuf => exact wrbufBody_putGie ..
  | wrbyte => exact wrbyteBody_putGie ..
  | rdbuf => exact rdbufBody_putGie ..
  | peek => exact peekBody_putGie ..
  | consume => exact consumeBody_putGie ..

/-- Settles O52: a command answers what its body answers, and no body reads or writes GIE. -/
theorem gieDoesNotMatter : Obligations.GieDoesNotMatter := by
  intro s t i _ h
  obtain ⟨hp, hbody⟩ := exec_next h
  have hclosed : bodyOf i (s.putGie false) = .ok (t.putGie false) := by
    rw [bodyOf_putGie, hbody]
    rfl
  exact exec_next_of_body (s := s.putGie false) hp hclosed

end Sys2Proof.Machine
end

section
/-! PROOFS. Polled values under the single-producer/single-consumer discipline (70_reset_and_hazards.md R123). A stretch of a run
without one kind of command does not make smaller a number that only that kind decreases: USED for the commands that drain, FREE
for those that fill. -/

namespace Sys2Proof.Machine

/-! ### What the commands of a stretch do to USED and FREE -/

theorem State.free_eq_cap_sub (s : State) : s.free = s.cap.toNat - s.used := by
  have hsum := s.used_add_free
  omega

/-- A write that fits does not make USED smaller. -/
theorem State.Inv.used_le_of_head {s t : State} (h : s.Inv) {n : Nat} (hn : n ≤ s.free) (hcap : t.cap = s.cap)
    (htail : t.tail = s.tail) (hhead : t.head = advance s.head n s.size) : s.used ≤ t.used := by
  rw [State.used_of_head h.headLegal h.tailLegal hn hcap htail hhead]
  exact Nat.le_add_right ..

/-- A success other than RDBUF and CONSUME does not make USED smaller; before a CREATE it is 0. -/
theorem Succeeds.used_le {i : Instr} {s t : State} (h : s.Inv) (hs : Succeeds s i t) (hi : i.drains = false) : s.used ≤ t.used := by
  cases hs with
  | create hcfg =>
    obtain ⟨hcap, -⟩ := h.unconfigured hcfg
    exact (State.used_free_of_cap_zero hcap).1.trans_le (Nat.zero_le _)
  | wrbuf _ _ hfit => exact h.used_le_of_head hfit rfl rfl rfl
  | wrbyte _ hfit => exact h.used_le_of_head (Nat.one_le_iff_ne_zero.mpr hfit) rfl rfl rfl
  | peek => exact Nat.le_refl s.used
  | rdbuf => cases hi
  | consume => cases hi

/-- A read of held bytes does not make FREE smaller. -/
theorem State.Inv.free_le_of_tail {s t : State} (h : s.Inv) {n : Nat} (hn : n ≤ s.used) (hcap : t.cap = s.cap)
    (hhead : t.head = s.head) (htail : t.tail = advance s.tail n s.size) : s.free ≤ t.free := by
  have hused : t.used = s.used - n := State.used_of_tail h.headLegal h.tailLegal hn hcap hhead htail
  rw [State.free_eq_cap_sub, State.free_eq_cap_sub, hcap, hused]
  omega

/-- A success other than WRBUF and WRBYTE does not make FREE smaller; before a CREATE it is 0. -/
theorem Succeeds.free_le {i : Instr} {s t : State} (h : s.Inv) (hs : Succeeds s i t) (hi : i.fills = false) : s.free ≤ t.free := by
  cases hs with
  | create hcfg =>
    obtain ⟨hcap, -⟩ := h.unconfigured hcfg
    exact (State.used_free_of_cap_zero hcap).2.trans_le (Nat.zero_le _)
  | rdbuf _ _ hheld => exact h.free_le_of_tail hheld rfl rfl rfl
  | consume _ _ hheld => exact h.free_le_of_tail hheld rfl rfl rfl
  | peek => exact Nat.le_refl s.free
  | wrbuf => cases hi
  | wrbyte => cases hi

/-- `f` is a number read from CAP, HEAD and TAIL that only a command of kind `p` makes smaller. -/
structure ShrinksOnlyBy (p : Instr → Bool) (f : State → Nat) : Prop where
  of_indices {s t : State} : t.cap = s.cap → t.head = s.head → t.tail = s.tail → f s = f t
  succeeds_le {s t : State} {i : Instr} : s.Inv → Succeeds s i t → p i = false → f s ≤ f t

theorem used_shrinksOnlyBy_drains : ShrinksOnlyBy Instr.drains State.used where
  of_indices hcap hhead htail := by simp only [State.used, State.size, hcap, hhead, htail]
  succeeds_le := Succeeds.used_le

theorem free_shrinksOnlyBy_fills : ShrinksOnlyBy Instr.fills State.free where
  of_indices hcap hhead htail := by simp only [State.free, State.used, State.size, hcap, hhead, htail]
  succeeds_le := Succeeds.free_le

/-! ### The words of a stretch -/

theorem wordAvoids_of_decode {p : Instr → Bool} {w : Word} {i : Instr} (hw : wordAvoids p w = true) (hd : decode w = .ok i) :
    p i = false := by
  simpa [wordAvoids, hd] using hw

/-- An agent whose list avoids a kind of command issues none of that kind. -/
theorem State.fetch_avoids {s : State} {p : Instr → Bool} {a : Nat} {x : Transaction}
    (hp : ∀ g, s.agents[a]? = some g → g.avoids p = true) (hx : s.fetch a = some x) : wordAvoids p x.cmd = true := by
  obtain ⟨g, hg, hprogram⟩ := State.fetch_eq_some hx
  exact List.all_eq_true.mp (hp g hg) x (List.mem_of_getElem? hprogram)

theorem ShrinksOnlyBy.runWord_le {p : Instr → Bool} {f : State → Nat} (hf : ShrinksOnlyBy p f) {w : Word} {s t : State} (h : s.Inv)
    (hw : wordAvoids p w = true) (ht : runWord w s = .next t) : f s ≤ f t := by
  rcases runWord_next ht with ⟨i, hd, hi⟩ | ⟨e, -, -, rfl⟩
  · rcases exec_fails_or_succeeds hi with hfail | hs
    · obtain ⟨-, hcap, hhead, htail, -⟩ := hfail.keeps_block
      exact Nat.le_of_eq (hf.of_indices hcap hhead htail)
    · exact hf.succeeds_le h hs (wordAvoids_of_decode hw hd)
  · exact Nat.le_of_eq (hf.of_indices rfl rfl rfl)

/-! ### The steps of a stretch -/

/-- What a stretch asks of each of its events. -/
theorem State.phaseAvoids_iff {s : State} {p : Instr → Bool} {k : Nat} :
    s.phaseAvoids p k = true ↔
      ∀ e ∈ s.schedule.take k, e ≠ .reset ∧ ∀ a, e = .issue a → ∀ g, s.agents[a]? = some g → g.avoids p = true := by
  refine List.all_eq_true.trans (forall₂_congr fun e _ => ?_)
  cases e with
  | reset => simp
  | setGie v => simp
  | issue a => cases hg : s.agents[a]? <;> simp [hg]

/-- A step takes its event off the schedule. -/
theorem step_schedule {s t : State} (h : step s = .next t) : t.schedule = s.schedule.tail := by
  rcases step_next h with ⟨hs, rfl⟩ | ⟨es, hs, rfl⟩ | ⟨v, es, hs, rfl⟩ | ⟨a, es, hs, -, rfl⟩ |
    ⟨a, es, x, u, hs, -, hu, rfl⟩ <;> rw [hs]
  · rfl
  · rfl
  · rfl
  · rfl
  · rcases runWord_next hu with ⟨i, -, hi⟩ | ⟨e, -, -, rfl⟩
    · obtain ⟨-, -, -, hschedule, -⟩ := bodyOf_platform (exec_next hi).2
      exact hschedule
    · rfl

/-- The agent that has issued a command has the list it had. -/
theorem program_advanceAgent {agents : List Agent} {a b : Nat} {g : Agent} (hg : (advanceAgent agents a)[b]? = some g) :
    ∃ g', agents[b]? = some g' ∧ g.program = g'.program := by
  rw [advanceAgent, List.getElem?_modify] at hg
  obtain ⟨g', hg', rfl⟩ := Option.map_eq_some_iff.mp hg
  exact ⟨g', hg', by split <;> rfl⟩

/-- No step changes an agent's list (R126). -/
theorem step_keeps_programs {s t : State} (h : step s = .next t) {b : Nat} {g : Agent} (hg : t.agents[b]? = some g) :
    ∃ g', s.agents[b]? = some g' ∧ g.program = g'.program := by
  rcases step_next h with ⟨-, rfl⟩ | ⟨es, -, rfl⟩ | ⟨v, es, -, rfl⟩ | ⟨a, es, -, -, rfl⟩ | ⟨a, es, x, u, -, -, hu, rfl⟩
  · exact ⟨g, hg, rfl⟩
  · exact ⟨g, hg, rfl⟩
  · exact ⟨g, hg, rfl⟩
  · exact ⟨g, hg, rfl⟩
  · obtain ⟨hagents, -⟩ := runWord_keeps_run hu
    exact program_advanceAgent (agents := s.agents) (a := a) (by simpa [hagents] using hg)

/-- After its first step a stretch has one step less to go. -/
theorem State.phaseAvoids_step {s t : State} {p : Instr → Bool} {k : Nat} (hp : s.phaseAvoids p (k + 1) = true)
    (h : step s = .next t) : t.phaseAvoids p k = true := by
  rw [State.phaseAvoids_iff] at hp ⊢
  intro e he
  have hmem : e ∈ s.schedule.take (k + 1) := by
    rw [step_schedule h, ← List.drop_one, List.take_drop, Nat.add_comm] at he
    exact List.mem_of_mem_drop he
  obtain ⟨hreset, hissue⟩ := hp e hmem
  refine ⟨hreset, fun a ha g hg => ?_⟩
  obtain ⟨g', hg', hprogram⟩ := step_keeps_programs h hg
  have havoids : g'.avoids p = true := hissue a ha g' hg'
  rwa [Agent.avoids, hprogram]

theorem ShrinksOnlyBy.step_le {p : Instr → Bool} {f : State → Nat} (hf : ShrinksOnlyBy p f) {k : Nat} {s t : State} (h : s.Inv)
    (hp : s.phaseAvoids p (k + 1) = true) (ht : step s = .next t) : f s ≤ f t := by
  rw [State.phaseAvoids_iff] at hp
  rcases step_next ht with ⟨-, rfl⟩ | ⟨es, hs, -⟩ | ⟨v, es, -, rfl⟩ | ⟨a, es, -, -, rfl⟩ | ⟨a, es, x, u, hs, hx, hu, rfl⟩
  · exact Nat.le_refl _
  · exact absurd rfl (hp .reset (by simp [hs])).1
  · exact Nat.le_of_eq (hf.of_indices rfl rfl rfl)
  · exact Nat.le_of_eq (hf.of_indices rfl rfl rfl)
  · have hw : wordAvoids p x.cmd = true :=
      State.fetch_avoids (fun g hg => (hp (.issue a) (by simp [hs])).2 a rfl g hg) hx
    calc f s
      _ = f ((s.dropEvent es).present a x) := hf.of_indices rfl rfl rfl
      _ ≤ f u := hf.runWord_le (h.present es a x) hw hu
      _ = f (u.record a) := hf.of_indices rfl rfl rfl

/-- Over a stretch without commands of kind `p` the number does not shrink. -/
theorem ShrinksOnlyBy.run_le {p : Instr → Bool} {f : State → Nat} (hf : ShrinksOnlyBy p f) {k : Nat} {s t : State} (h : s.Inv)
    (hp : s.phaseAvoids p k = true) (ht : Host.Core.run core k s = .next t) : f s ≤ f t := by
  induction k generalizing s with
  | zero =>
    obtain rfl : s = t := Host.Outcome.next.inj ht
    exact Nat.le_refl _
  | succ k ih =>
    obtain ⟨u, hu, hrun⟩ := run_succ_next ht
    exact (hf.step_le h hp hu).trans (ih (step_keeps_inv h hu) (State.phaseAvoids_step hp hu) hrun)

/-! ### The command a polled value allows -/

theorem exec_rdbuf_of_le_used {s t : State} {bv dv : Bool} {n : Nat} (hn : n ≤ s.used) (h : exec (.rdbuf bv dv n) s = .next t) :
    t.status ≠ 5#3 := by
  intro h5
  obtain ⟨m, hi | hi | hi, -, -, hlt⟩ := (insufficientCauses s t _ h).2.mp h5
  · cases hi
    omega
  · cases hi
  · cases hi

theorem exec_wrbuf_of_le_free {s t : State} {bv dv : Bool} {n : Nat} (hn : n ≤ s.free) (h : exec (.wrbuf bv dv n) s = .next t) :
    t.status ≠ 4#3 := by
  intro h4
  rcases (insufficientCauses s t _ h).1.mp h4 with ⟨m, hi, -, -, hlt⟩ | ⟨b, hi, -⟩
  · cases hi
    omega
  · cases hi

theorem exec_wrbyte_of_free_pos {s t : State} {bv : Bool} {b : Byte} (hfree : 0 < s.free) (h : exec (.wrbyte bv b) s = .next t) :
    t.status ≠ 4#3 := by
  intro h4
  rcases (insufficientCauses s t _ h).1.mp h4 with ⟨m, hi, -⟩ | ⟨c, -, -, hzero⟩
  · cases hi
  · omega

/-! ### Without the discipline -/

/-- CAP = 2 with one byte held, so USED = FREE = 1. -/
def State.halfFull : State := { State.reset with cfg := true, cap := 2#10, head := 1#10, stor := [(0, 0#8)] }

theorem State.halfFull_inv : State.halfFull.Inv where
  capLegal := by decide
  headLegal := by decide
  tailLegal := by decide
  statusLegal := by decide
  rdataOfOk := by decide
  storWf := by decide
  storBounded := by decide
  liveWritten := by decide
  unconfigured := by decide

theorem State.Inv.withNext {s : State} (h : s.Inv) (t : Transaction) : (s.withNext t).Inv :=
  h.of_block rfl rfl rfl rfl rfl rfl rfl

/-- A CONSUME of the one byte held takes USED from 1 to 0. -/
theorem exists_step_used_lt : ∃ s s' : State, s.Inv ∧ Host.Core.run core 1 s = .next s' ∧ s'.used < s.used :=
  ⟨State.halfFull.withNext ⟨encode (.consume true 1), []⟩, _, State.halfFull_inv.withNext _, rfl, by decide⟩

/-- A WRBYTE takes FREE from 1 to 0. -/
theorem exists_step_free_lt : ∃ s s' : State, s.Inv ∧ Host.Core.run core 1 s = .next s' ∧ s'.free < s.free :=
  ⟨State.halfFull.withNext ⟨encode (.wrbyte true 7#8), []⟩, _, State.halfFull_inv.withNext _, rfl, by decide⟩

/-- Settles O57: by induction on the steps of the stretch, none of which makes the polled number smaller, so the command it allows
has no cause to fail for want of data or space. -/
theorem polledValuesAreLowerBounds : Obligations.PolledValuesAreLowerBounds := by
  refine ⟨fun k s s' h hrun => ⟨fun hp => ?_, fun hp => ?_, fun hp hpos bv b t ht => ?_⟩, exists_step_used_lt, exists_step_free_lt⟩
  · have hle : s.used ≤ s'.used := used_shrinksOnlyBy_drains.run_le h hp hrun
    exact ⟨hle, fun bv dv n t hn ht => exec_rdbuf_of_le_used (s := s'.putWdata []) (hn.trans hle) ht⟩
  · have hle : s.free ≤ s'.free := free_shrinksOnlyBy_fills.run_le h hp hrun
    exact ⟨hle, fun bv dv n w t hn ht => exec_wrbuf_of_le_free (s := s'.putWdata w) (hn.trans hle) ht⟩
  · have hle : s.free ≤ s'.free := free_shrinksOnlyBy_fills.run_le h hp hrun
    exact exec_wrbyte_of_free_pos (s := s'.putWdata []) (hpos.trans_le hle) ht

end Sys2Proof.Machine
end

section
/-! PROOFS. Decoding and encoding agree (30_encoding.md section 4). The word of a command is selected by that command's row of R68
and holds its operands in their fields; a word that a row selects is put together again from its fields. -/

namespace Sys2Proof

/-! ### From the command to its word and back -/

/-- The word of a command is selected by its own row and by no other. -/
theorem selects_encode (i : Instr) : Laws.EncodeSelects.Statement i := by
  cases i with
  | create c => exact Laws.EncodeSelects.create c
  | wrbuf bv dv n => exact Laws.EncodeSelects.wrbuf bv dv n
  | wrbyte bv b => exact Laws.EncodeSelects.wrbyte bv b
  | rdbuf bv dv n => exact Laws.EncodeSelects.rdbuf bv dv n
  | peek bv dv n => exact Laws.EncodeSelects.peek bv dv n
  | consume bv n => exact Laws.EncodeSelects.consume bv n

/-- An operand that fits is read back from IMM16. -/
theorem immField_packWord_ofNat {n : Nat} (h : operandFits n = true) (op : Opcode) (bv dv : Bool) :
    (immField (packWord op bv dv (BitVec.ofNat 16 n))).toNat = n := by
  rw [immField_packWord, BitVec.toNat_ofNat]
  exact Nat.mod_eq_of_lt ((operandFits_iff n).mp h)

/-- The fields of a well-formed command's word hold its operands. -/
theorem operandsOf_encode {i : Instr} (h : i.wellFormed = true) : operandsOf i.opcode (encode i) = i := by
  cases i with
  | create c => simp [Instr.opcode, operandsOf, encode, immField_packWord_ofNat h]
  | wrbuf bv dv n =>
    simp [Instr.opcode, operandsOf, encode, bvField_packWord, dvField_packWord, immField_packWord_ofNat h]
  | wrbyte bv b => simp [Instr.opcode, operandsOf, encode, bvField_packWord, byteField_packWord]
  | rdbuf bv dv n =>
    simp [Instr.opcode, operandsOf, encode, bvField_packWord, dvField_packWord, immField_packWord_ofNat h]
  | peek bv dv n =>
    simp [Instr.opcode, operandsOf, encode, bvField_packWord, dvField_packWord, immField_packWord_ofNat h]
  | consume bv n => simp [Instr.opcode, operandsOf, encode, bvField_packWord, immField_packWord_ofNat h]

/-- Settles O18: the command's own row selects its word, and the fields of that word hold its operands. -/
theorem decodeOfEncode : Obligations.DecodeOfEncode := by
  intro i h
  rw [decode_of_selects ((selects_encode i i.opcode).mpr rfl), operandsOf_encode h]

/-! ### From the word to its command and back -/

theorem ofBool_getLsbD (w : Word) (k : Nat) : BitVec.ofBool (w.getLsbD k) = w.extractLsb' k 1 := by
  apply BitVec.eq_of_getLsbD_eq
  intro i hi
  obtain rfl : i = 0 := Nat.lt_one_iff.mp hi
  simp

/-- RSV is 0 in a word that a row selects (R63). -/
theorem rsvField_of_selects {op : Opcode} {w : Word} (h : selects op w = true) : w.extractLsb' 6 10 = 0#10 := by
  rw [extractLsb'_of_selects h (by cases op <;> decide)]
  cases op <;> rfl

/-- A word that a row selects is its five fields laid out again: RSV is 0 and OP is the row's number. -/
theorem packWord_fields {op : Opcode} {w : Word} (h : selects op w = true) :
    packWord op (bvField w) (dvField w) (immField w) = w := by
  have hlow : w.extractLsb' 4 1 ++ w.extractLsb' 0 4 = w.extractLsb' 0 5 := BitVec.extractLsb'_append_extractLsb'_eq_extractLsb' rfl
  have hdv : w.extractLsb' 5 1 ++ w.extractLsb' 0 5 = w.extractLsb' 0 6 := BitVec.extractLsb'_append_extractLsb'_eq_extractLsb' rfl
  have hrsv : w.extractLsb' 6 10 ++ w.extractLsb' 0 6 = w.extractLsb' 0 16 := BitVec.extractLsb'_append_extractLsb'_eq_extractLsb' rfl
  have himm : w.extractLsb' 16 16 ++ w.extractLsb' 0 16 = w.extractLsb' 0 32 := BitVec.extractLsb'_append_extractLsb'_eq_extractLsb' rfl
  rw [packWord, ← opField_of_selects h, ← rsvField_of_selects h, bvField, dvField, ofBool_getLsbD, ofBool_getLsbD, opField, hlow, hdv,
    hrsv, immField, himm, BitVec.extractLsb'_eq_self]

/-- In a WRBYTE word IMM16 is B under a zero byte (R67). -/
theorem immField_of_selects_wrbyte {w : Word} (h : selects .wrbyte w = true) : immField w = 0#8 ++ byteField w := by
  have hhigh : w.extractLsb' 24 8 = 0#8 := extractLsb'_of_selects h (by decide)
  have himm : w.extractLsb' 24 8 ++ w.extractLsb' 16 8 = w.extractLsb' 16 16 := BitVec.extractLsb'_append_extractLsb'_eq_extractLsb' rfl
  rw [immField, ← himm, hhigh, byteField]

/-- The operands of a selected word, encoded, are the word: the row fixes the bits that are no operand of its command. -/
theorem encode_operandsOf {op : Opcode} {w : Word} (h : selects op w = true) : encode (operandsOf op w) = w := by
  refine Eq.trans ?_ (packWord_fields h)
  cases op with
  | create =>
    have hbv : bvField w = false := getLsbD_of_selects h rfl
    have hdv : dvField w = false := getLsbD_of_selects h rfl
    simp [operandsOf, encode, hbv, hdv]
  | wrbyte =>
    have hdv : dvField w = false := getLsbD_of_selects h rfl
    simp [operandsOf, encode, hdv, immField_of_selects_wrbyte h]
  | consume =>
    have hdv : dvField w = false := getLsbD_of_selects h rfl
    simp [operandsOf, encode, hdv]
  | wrbuf => simp [operandsOf, encode]
  | rdbuf => simp [operandsOf, encode]
  | peek => simp [operandsOf, encode]

/-- IMM16 has 16 bits, so an operand taken from it fits (R9, R67). -/
theorem wellFormed_operandsOf (op : Opcode) (w : Word) : (operandsOf op w).wellFormed = true := by
  have hfits : operandFits (immField w).toNat = true := (operandFits_iff _).mpr (immField w).isLt
  cases op with
  | wrbyte => rfl
  | create => exact hfits
  | wrbuf => exact hfits
  | rdbuf => exact hfits
  | peek => exact hfits
  | consume => exact hfits

/-- Settles O19: a word that decodes is selected by its command's row, and its fields encode to it again. -/
theorem encodeOfDecode : Obligations.EncodeOfDecode := by
  intro w i h
  obtain ⟨hs, hi⟩ := selects_of_decode h
  rw [hi]
  exact ⟨encode_operandsOf hs, wellFormed_operandsOf i.opcode w⟩

/-- Settles O17: the decoder evaluated on eight words of V-E. -/
theorem knownWordsDecode : Obligations.KnownWordsDecode := ⟨rfl, rfl, rfl, rfl, rfl, rfl, rfl, rfl⟩

end Sys2Proof
end

section
/-! PROOFS. One step, the invariant along steps, and the refinement of the abstract queue (70_reset_and_hazards.md sections 1 and 5,
20_memory.md R45). -/

namespace Sys2Proof.Machine

/-! ### The invariant -/

/-- Settles O7: the first state is what a reset of it leaves. -/
theorem resetMeetsInvariant : Obligations.ResetMeetsInvariant := State.blockReset_inv State.reset

/-- Settles O8: a reset leaves a state that meets the invariant, the other events leave the block alone, and a command that an
agent issues fails, which changes its response alone, or succeeds with writes that keep the invariant. -/
theorem stepKeepsInvariant : Obligations.StepKeepsInvariant := fun _ _ h ht => step_keeps_inv h ht

/-- Settles O54: under the invariant no storage loop faults, so the command completes, and each body does to the queue what its
command does on the abstract queue. -/
theorem blockRefinesQueue : Obligations.BlockRefinesQueue := by
  intro s i h hp
  obtain ⟨t, ht⟩ := h.exec_completes hp
  exact ⟨t, ht, h.exec_result ht⟩

/-! ### What each event does -/

/-- Settles O2: a reset takes its event and writes the block's registers and STOR. -/
theorem resetStepLeavesPlatform : Obligations.ResetStepLeavesPlatform := by
  intro s es hs
  rw [step, hs]
  rfl

/-- Settles O3: the step presents the transaction and completes its word, which is the decoded command. -/
theorem stepRunsDecodedCommand : Obligations.StepRunsDecodedCommand := by
  intro s a es t i hs ht hd
  rw [step_issue hs ht, runWord_of_ok hd]
  rfl

/-- Settles O53: of the events the platform's own alone writes GIE, and a word that completes leaves it. -/
theorem gieBelongsToPlatform : Obligations.GieBelongsToPlatform := by
  intro s t h
  rcases step_next h with ⟨hs, rfl⟩ | ⟨es, hs, rfl⟩ | ⟨v, es, hs, rfl⟩ | ⟨a, es, hs, -, rfl⟩ |
    ⟨a, es, x, u, hs, -, hu, rfl⟩ <;> rw [hs]
  · rfl
  · rfl
  · rfl
  · rfl
  · exact runWord_keeps_gie (s := (s.dropEvent es).present a x) (t := u) hu

/-! ### The end of a run -/

/-- An agent whose list has been issued has no command to fetch (R37, R126). -/
theorem State.fetch_of_runEnded {s : State} (h : s.runEnded = true) (a : Nat) : s.fetch a = none := by
  rw [Option.eq_none_iff_forall_ne_some]
  intro x hx
  obtain ⟨g, hg, hprogram⟩ := State.fetch_eq_some hx
  have hissued : g.program.length ≤ g.next := by
    simpa using List.all_eq_true.mp h g (List.mem_of_getElem? hg)
  have hnone : g.program[g.next]? = none := List.getElem?_eq_none hissued
  cases hnone.symm.trans hprogram

/-- Settles O10: no agent has a command left, so a step but the two excluded ones at most takes an event off the schedule, which
the observation does not show. -/
theorem endedRunIsObserved : Obligations.EndedRunIsObserved := by
  intro s t hend hreset hgie h
  rcases step_next h with ⟨-, rfl⟩ | ⟨es, hs, -⟩ | ⟨v, es, hs, -⟩ | ⟨a, es, -, -, rfl⟩ | ⟨a, es, x, u, -, hx, -, -⟩
  · exact ⟨hend, rfl⟩
  · exact absurd (congrArg List.head? hs) hreset
  · exact absurd (congrArg List.head? hs) (hgie v)
  · exact ⟨hend, rfl⟩
  · cases (State.fetch_of_runEnded hend a).symm.trans hx

/-! ### The observation outputs -/

/-- Settles O14: USED and FREE add up to CAP, HEAD is USED slots after TAIL, and the flags are those of USED and FREE. -/
theorem outputsAgree : Obligations.OutputsAgree := fun s hh ht =>
  ⟨rfl, rfl, rfl, rfl, rfl, s.used_add_free, State.slotAt_used hh ht, State.empty_iff_used hh ht, State.full_iff_free⟩

end Sys2Proof.Machine
end

section
/-! SUPPORT. The frames of the commands: which command writes which register, and which writes STOR. A command that completes has
failed or succeeded as its status says. -/

namespace Sys2Proof.Machine

theorem exec_keeps_config {i : Instr} {s t : State} (h : exec i s = .next t) (hc : ¬ ∃ c, i = .create c) :
    t.cfg = s.cfg ∧ t.cap = s.cap := by
  rcases exec_fails_or_succeeds h with hf | hs
  · obtain ⟨hcfg, hcap, -⟩ := hf.keeps_block
    exact ⟨hcfg, hcap⟩
  · exact hs.keeps_config.resolve_left fun ⟨c, hi, _⟩ => hc ⟨c, hi⟩

theorem exec_keeps_head {i : Instr} {s t : State} (h : exec i s = .next t) (hc : ¬ ∃ c, i = .create c) (hi : i.fills = false) :
    t.head = s.head := by
  by_contra hne
  rcases ((writersOfRegisters s t i h).1 hne).2 with ⟨c, rfl, -⟩ | ⟨bv, dv, n, rfl⟩ | ⟨bv, b, rfl⟩
  · exact hc ⟨c, rfl⟩
  · cases hi
  · cases hi

theorem exec_keeps_tail {i : Instr} {s t : State} (h : exec i s = .next t) (hc : ¬ ∃ c, i = .create c) (hi : i.drains = false) :
    t.tail = s.tail := by
  by_contra hne
  rcases ((writersOfRegisters s t i h).2.1 hne).2 with ⟨c, rfl, -⟩ | ⟨bv, dv, n, rfl⟩ | ⟨bv, n, rfl⟩
  · exact hc ⟨c, rfl⟩
  · cases hi
  · cases hi

/-- WRBUF and WRBYTE alone write STOR (R41, R83, R86). -/
theorem Succeeds.keeps_stor {i : Instr} {s t : State} (h : Succeeds s i t) (hi : i.fills = false) : t.stor = s.stor := by
  cases h with
  | wrbuf => cases hi
  | wrbyte => cases hi
  | create => rfl
  | rdbuf => rfl
  | peek => rfl
  | consume => rfl

theorem exec_keeps_stor {i : Instr} {s t : State} (h : exec i s = .next t) (hi : i.fills = false) : t.stor = s.stor := by
  rcases exec_fails_or_succeeds h with hf | hs
  · obtain ⟨-, -, -, -, hstor⟩ := hf.keeps_block
    exact hstor
  · exact hs.keeps_stor hi

/-- A command that reports no success has failed (R95). -/
theorem fails_of_status_ne_zero {i : Instr} {s t : State} (h : exec i s = .next t) (hne : t.status ≠ 0#3) : Fails s i t :=
  (exec_fails_or_succeeds h).resolve_right fun hs => hne hs.status_eq_zero

theorem succeeds_of_status_zero {i : Instr} {s t : State} (h : exec i s = .next t) (h0 : t.status = 0#3) : Succeeds s i t :=
  (exec_fails_or_succeeds h).resolve_left fun hf => hf.status_ne_zero h0

end Sys2Proof.Machine
end

section
/-! PROOFS. CREATE's success, what a successful write or CONSUME leaves of the derived values, and the frame of each command
(40_create.md, 41_write.md, 42_read.md). -/

namespace Sys2Proof.Machine

/-! ### CREATE -/

/-- The derived values after the writes of CREATE: both indices are 0 (40_create.md). -/
theorem State.commitCreate_values (s : State) {c : Nat} (hc : c ≤ Config.maxCap) :
    (s.commitCreate (capOf c)).size = c + 1 ∧ (s.commitCreate (capOf c)).used = 0 ∧ (s.commitCreate (capOf c)).free = c ∧
    (s.commitCreate (capOf c)).empty = true ∧ ((s.commitCreate (capOf c)).full = true ↔ c = 0) := by
  have hcap : (s.commitCreate (capOf c)).cap.toNat = c := capOf_toNat hc
  have hused : (s.commitCreate (capOf c)).used = 0 := by simp [State.used]
  have hfree : (s.commitCreate (capOf c)).free = c := by rw [State.free_eq_cap_sub, hcap, hused, Nat.sub_zero]
  exact ⟨congrArg (· + 1) hcap, hused, hfree, rfl, by rw [State.full_iff_free, hfree]⟩

/-- Settles O25: with both draws true CREATE takes the success path, and its writes give the derived values. -/
theorem createSucceeds : Obligations.CreateSucceeds := by
  intro s c hp hcfg hc hd hd'
  have hexec := exec_create_of_no_payload hp c
  rw [createBody_of_draws_true hcfg hc hd hd'] at hexec
  exact ⟨_, hexec, rfl, s.afterDraw.afterDraw.commitCreate_values hc⟩

/-- Settles O30: no command writes the platform, the port or the run, CREATE writes no STOR, and a failure writes no register. -/
theorem createFrame : Obligations.CreateFrame := by
  intro s t c h
  obtain ⟨hgie, hwdata, hagents, hschedule, hresponses⟩ := bodyOf_platform (exec_next h).2
  refine ⟨hgie, hwdata, hagents, hschedule, hresponses, fun a => by rw [exec_keeps_stor h rfl], fun hne => ?_⟩
  obtain ⟨hcfg, hcap, hhead, htail, -⟩ := (fails_of_status_ne_zero h hne).keeps_block
  exact ⟨hcfg, hcap, hhead, htail⟩

/-! ### WRBUF and WRBYTE -/

/-- Settles O32: the one byte is put at HEAD, which is an existing slot. -/
theorem wrbyteAppends : Obligations.WrbyteAppends := by
  intro s b hc hcap hh hp hfree
  have hv : s.handleValid true = true := State.handleValid_iff.mpr ⟨rfl, hc⟩
  have hle : s.head.toNat ≤ Config.maxCap := Nat.le_of_lt_succ (hh.trans_le (State.size_le_of_cap hcap))
  have hbody := wrbyteBody_of_valid hv hfree.ne' hle b
  refine ⟨s.stor.put s.head.toNat b, exec_next_of_body (congrArg List.length hp) hbody, ?_, fun a ha => ?_⟩
  · rw [Memory.lookup_put, if_pos rfl]
  · rw [Memory.lookup_put, if_neg ha]

/-- The bytes a write command appends: its payload or its one operand byte (R83, R86). -/
def State.appended (s : State) : Instr → List Byte
  | .wrbuf _ _ _ => s.wdata
  | .wrbyte _ b => [b]
  | _ => []

/-- A successful write stores the bytes it appends from HEAD on and advances HEAD by their number (R46, R83, R86, R88). -/
theorem Succeeds.write_eq {i : Instr} {s t : State} (h : Succeeds s i t) (hi : i.fills = true) (hh : s.head.toNat < s.size)
    (hp : s.wdata.length = i.payloadLen) :
    s.cfg = true ∧ 0 < (s.appended i).length ∧ (s.appended i).length ≤ s.free ∧
    ∃ m, writeFrom s.head.toNat s.size 0 (s.appended i) s.stor = .ok m ∧
      t = (s.commitWrite m (advance s.head (s.appended i).length s.size)).finish [] := by
  cases h with
  | wrbuf hv hn hfit hw =>
    obtain rfl : s.wdata.length = _ := hp
    exact ⟨(State.handleValid_iff.mp hv).2, Nat.pos_of_ne_zero hn, hfit, _, hw, rfl⟩
  | @wrbyte _ b hv hfit hle =>
    exact ⟨(State.handleValid_iff.mp hv).2, Nat.one_pos, Nat.one_le_iff_ne_zero.mpr hfit, _, writeFrom_one b hh hle, rfl⟩
  | create => cases hi
  | rdbuf => cases hi
  | peek => cases hi
  | consume => cases hi

/-- The flags and the queue after a write of `w` that fits (R83, R86). -/
theorem State.Inv.flags_after_write {s t : State} (h : s.Inv) (hc : s.cfg = true) {w : List Byte} {m : Memory} (hpos : 0 < w.length)
    (hfit : w.length ≤ s.free) (hw : writeFrom s.head.toNat s.size 0 w s.stor = .ok m)
    (ht : t = (s.commitWrite m (advance s.head w.length s.size)).finish []) :
    t.used = s.used + w.length ∧ t.free + w.length = s.free ∧ t.empty = false ∧ (t.full = true ↔ w.length = s.free) ∧
    t.queueBytes = s.queueBytes ++ w := by
  have htInv : t.Inv := ht ▸ (h.commitWrite hc hfit hw).finish []
  have hcap : t.cap = s.cap := ht ▸ rfl
  have hused : t.used = s.used + w.length := State.used_of_head h.headLegal h.tailLegal hfit hcap (ht ▸ rfl) (ht ▸ rfl)
  have hfree : t.free + w.length = s.free := by
    have hsum := s.used_add_free
    have htsum := t.used_add_free
    rw [hcap] at htsum
    omega
  refine ⟨hused, hfree, ?_, ?_, ht ▸ h.queueBytes_commitWrite hc hfit hw⟩
  · rw [Bool.eq_false_iff, ne_eq, State.empty_iff_used htInv.headLegal htInv.tailLegal]
    omega
  · rw [State.full_iff_free]
    omega

/-- Settles O33: a success has stored `w` from HEAD on, which adds its length to USED and puts it at the end of Q. -/
theorem writeFlags : Obligations.WriteFlags := by
  intro s t i w h hp hi hx h0
  obtain ⟨hfills, rfl⟩ : i.fills = true ∧ w = s.appended i := by
    rcases hi with ⟨len, rfl, rfl⟩ | ⟨b, rfl, rfl⟩ <;> exact ⟨rfl, rfl⟩
  obtain ⟨hc, hpos, hfit, m, hw, ht⟩ := (succeeds_of_status_zero hx h0).write_eq hfills h.headLegal hp
  exact h.flags_after_write hc hpos hfit hw ht

theorem State.length_appended_le {s : State} {i : Instr} {len : Nat}
    (hi : (∃ bv dv, i = .wrbuf bv dv len) ∨ ∃ bv b, i = .wrbyte bv b ∧ len = 1) (hp : s.wdata.length = i.payloadLen) :
    (s.appended i).length ≤ len := by
  rcases hi with ⟨bv, dv, rfl⟩ | ⟨bv, b, rfl, rfl⟩
  · cases dv with
    | true => exact hp.le
    | false => exact hp.le.trans (Nat.zero_le len)
  · exact Nat.le_refl 1

/-- A write stores to the slots of its bytes from HEAD on and to no other (R46). -/
theorem exec_write_outside {i : Instr} {s t : State} (h : exec i s = .next t) (hi : i.fills = true) (hh : s.head.toNat < s.size)
    {a : Nat} (ha : ∀ k, k < (s.appended i).length → a ≠ slotAt s.head.toNat s.size k) :
    Memory.lookup t.stor a = Memory.lookup s.stor a := by
  rcases exec_fails_or_succeeds h with hf | hs
  · obtain ⟨-, -, -, -, hstor⟩ := hf.keeps_block
    rw [hstor]
  · obtain ⟨-, -, hfit, m, hw, rfl⟩ := hs.write_eq hi hh (exec_next h).1
    have hsize : s.size = s.cap.toNat + 1 := rfl
    have hcap := s.free_le_cap
    obtain ⟨-, -, -, hout⟩ := writeFrom_spec s.size_pos (by omega) hw
    exact hout a (by simpa using ha)

theorem exec_write_rdata {i : Instr} {s t : State} (h : exec i s = .next t) (hi : i.fills = true) (hh : s.head.toNat < s.size) :
    t.rdata = [] := by
  rcases exec_fails_or_succeeds h with hf | hs
  · exact hf.rdata_eq_nil
  · obtain ⟨-, -, -, m, -, rfl⟩ := hs.write_eq hi hh (exec_next h).1
    rfl

/-- Settles O36: WRBUF and WRBYTE write STOR at the slots of their bytes, HEAD and the response; a failure writes the response alone. -/
theorem writeFrame : Obligations.WriteFrame := by
  intro s t i len hi hh h
  obtain ⟨hfills, hdrains, hcreate⟩ : i.fills = true ∧ i.drains = false ∧ ¬ ∃ c, i = .create c := by
    rcases hi with ⟨bv, dv, rfl⟩ | ⟨bv, b, rfl, -⟩ <;> exact ⟨rfl, rfl, nofun⟩
  obtain ⟨hp, hbody⟩ := exec_next h
  obtain ⟨hgie, hwdata, hagents, hschedule, hresponses⟩ := bodyOf_platform hbody
  obtain ⟨hcfg, hcap⟩ := exec_keeps_config h hcreate
  obtain ⟨hinput, hdrawn⟩ := exec_keeps_draws h hcreate
  have hlen := State.length_appended_le hi hp
  refine ⟨hcfg, hcap, exec_keeps_tail h hcreate hdrains, hgie, hinput, hdrawn, hwdata, hagents, hschedule, hresponses,
    exec_write_rdata h hfills hh, fun a ha => exec_write_outside h hfills hh fun k hk => ha k (hk.trans_le hlen), fun hne => ?_⟩
  obtain ⟨-, -, hhead, -, hstor⟩ := (fails_of_status_ne_zero h hne).keeps_block
  exact ⟨hhead, fun a => by rw [hstor]⟩

/-! ### RDBUF, PEEK and CONSUME -/

/-- Settles O38: CONSUME passes its checks, and an advance of TAIL by LEN takes LEN from USED. -/
theorem consumeDiscards : Obligations.ConsumeDiscards := by
  intro s len hc hp hh ht hpos hheld
  have hv : s.handleValid true = true := State.handleValid_iff.mpr ⟨rfl, hc⟩
  refine ⟨_, exec_next_of_body (congrArg List.length hp) (consumeBody_of_valid hv hpos hheld), rfl, ?_⟩
  generalize hu : (s.commitTail (advance s.tail len s.size)).finish [] = u
  have hcap : u.cap = s.cap := hu ▸ rfl
  have hhead : u.head = s.head := hu ▸ rfl
  have htail : u.tail = advance s.tail len s.size := hu ▸ rfl
  have hsize : u.size = s.size := by rw [State.size, State.size, hcap]
  have hused : u.used = s.used - len := State.used_of_tail hh ht hheld hcap hhead htail
  have hsum := s.used_add_free
  have husum := u.used_add_free
  rw [hcap] at husum
  refine ⟨by omega, by omega, ?_, ?_⟩
  · rw [Bool.eq_false_iff, ne_eq, State.full_iff_free]
    omega
  · rw [State.empty_iff_used (by rwa [hsize, hhead]) (by rw [hsize, htail]; exact advance_lt s s.tail len)]
    omega

/-- Settles O39: RDBUF, PEEK and CONSUME write TAIL and the response alone; PEEK and a failure write no TAIL. -/
theorem readFrame : Obligations.ReadFrame := by
  intro s t i hi h
  obtain ⟨hfills, hcreate⟩ : i.fills = false ∧ ¬ ∃ c, i = .create c := by
    rcases hi with ⟨bv, dv, n, rfl | rfl⟩ | ⟨bv, n, rfl⟩ <;> exact ⟨rfl, nofun⟩
  obtain ⟨hgie, hwdata, hagents, hschedule, hresponses⟩ := bodyOf_platform (exec_next h).2
  obtain ⟨hcfg, hcap⟩ := exec_keeps_config h hcreate
  obtain ⟨hinput, hdrawn⟩ := exec_keeps_draws h hcreate
  refine ⟨hcfg, hcap, exec_keeps_head h hcreate hfills, hgie, hinput, hdrawn, hwdata, hagents, hschedule, hresponses,
    fun a => by rw [exec_keeps_stor h hfills], ?_⟩
  rintro (hne | ⟨bv, dv, n, rfl⟩)
  · obtain ⟨-, -, -, htail, -⟩ := (fails_of_status_ne_zero h hne).keeps_block
    exact htail
  · exact exec_keeps_tail h hcreate rfl

/-- PEEK writes its response alone (R91). -/
theorem exec_peek_eq_response {bv dv : Bool} {n : Nat} {s t : State} (h : exec (.peek bv dv n) s = .next t) :
    t = { s with status := t.status, rdata := t.rdata } := by
  rcases exec_fails_or_succeeds h with hf | hs
  · cases hf
    rfl
  · cases hs
    rfl

/-- Settles O41: the second PEEK runs in a state that differs in the response alone, which no command reads. -/
theorem peekIsRepeatable : Obligations.PeekIsRepeatable := by
  intro s t bv dv n h
  have hsame := exec_putResponse (.peek bv dv n) s t.status t.rdata
  rw [← exec_peek_eq_response h] at hsame
  exact hsame.trans h

end Sys2Proof.Machine
end
